-- ==== Sys2Proof/Word.lean ====
section
/-! DEFINITION. The unit's word types: every register, stack entry, operand field and memory word is an unsigned
32-bit number, a data-memory cell is a byte and an instruction record is 80 bits (spec/00_scope.md R11, R14;
spec/30_encoding.md R90). -/

namespace Sys2Proof

/-- A register, a stack entry, an operand field, a program index (`XLEN = 32`, R11, R14). -/
abbrev Word := BitVec 32

/-- A data-memory cell, an opcode byte, a `dest_reg` field (R35, R90). -/
abbrev Byte := BitVec 8

/-- One 80-bit instruction record `W` (R90). -/
abbrev Record := BitVec 80

/-- The largest unsigned 32-bit value, `0xFFFFFFFF` (R172). -/
def wordMax : Nat := 0xFFFFFFFF

end Sys2Proof
end

