-- ==== Sys2Proof/Config.lean ====
section
/-! DEFINITION. The implementation parameters of spec/00_scope.md R11 and the values the spec leaves open.
A parameter the spec fixes is a constant. Every other one (a capacity, the opcode numbers of CALL and RET, the byte order, the
reading of MEMCPY's fields and bound, RET's target check) is a field of `Params`, which `State` holds, so that a statement
about every state holds for every value of it (R12). A value the spec calls a draw or unspecified is an opaque constant:
nothing can be proved of it. -/

namespace Sys2Proof

/-- How MEMCPY takes its operands from the record (`MEMCPY_FIELDS`, R11, R97; D22). -/
inductive MemcpyFields where
  /-- `dest = zext_32(dest_reg)`, `src = operand1`, `len = operand2`: the default. -/
  | positional
  /-- `dest = x[dest_reg]`, `src = x[operand1]`, `len = x[operand2]` (R247). -/
  | registerIndirect
  deriving DecidableEq, Repr

/-- Which end points MEMCPY's bounds check accepts (`MEMCPY_BOUND`, R11, R67; D23, C4). -/
inductive MemcpyBound where
  /-- `StrictOk`: the end of a range is below the memory size. The default. -/
  | strict
  /-- `RangeOk`: the range lies within the memory. -/
  | range
  deriving DecidableEq, Repr

/-- The byte order of data memory (`DATA_ENDIAN`, R11, R62; D9, I2). It cannot be switched while the unit works. -/
inductive Endian where
  /-- `LITTLE`: the lowest address holds bits 7:0. The default, and R62's text. -/
  | little
  /-- The other reading of the source's "little/native-order": the lowest address holds bits 31:24 (log 23). -/
  | big
  deriving DecidableEq, Repr

/-- `OPC_CALL` and `OPC_RET`, the opcode numbers that the source's enumeration does not give (R11, R93; C1, D3, I15). -/
structure OpcodeNums where
  call : Byte
  ret : Byte
  deriving DecidableEq, Repr

/-- The default numbers: `OPC_CALL = 19` and `OPC_RET = 20` (R11, R93). -/
def OpcodeNums.standard : OpcodeNums := { call := 19, ret := 20 }

/-- Every number the source gives, 0 to 18, keeps its meaning, and CALL and RET have different ones (R93, log 24). -/
def OpcodeNums.Legal (n : OpcodeNums) : Prop := 18 < n.call.toNat ∧ 18 < n.ret.toNat ∧ n.call ≠ n.ret

/-- The parameters of R11 that are not fixed. They are fixed for the life of the unit: no step changes them. -/
structure Params where
  opcodes : OpcodeNums
  dataEndian : Endian
  /-- `STACK_CAPACITY`, a natural number `>= 1` (R31). -/
  stackCapacity : Nat
  /-- `PROG_CAPACITY`, in `[1, 2^32 - 1]` (R125). -/
  progCapacity : Nat
  /-- `ICACHE_ENTRIES`, any natural number (R47). -/
  icacheEntries : Nat
  memcpyFields : MemcpyFields
  memcpyBound : MemcpyBound
  /-- `RET_CHECK_TARGET` (R227). -/
  retCheckTarget : Bool
  deriving DecidableEq, Repr

/-- The constraints R11 puts on the parameters. -/
def Params.Legal (p : Params) : Prop :=
  1 ≤ p.stackCapacity ∧ 1 ≤ p.progCapacity ∧ p.progCapacity ≤ 2 ^ 32 - 1 ∧ p.opcodes.Legal

/-- `NREG` (R11). -/
def Config.nreg : Nat := 16

/-- The default `memory_size` of INIT (R11, R123). -/
def Config.defaultMemSize : Nat := 65536

/-- The largest `memory_size` INIT accepts (R11, R123; D20). -/
def Config.maxMemSize : Nat := 2 ^ 32

/-- `HOT_PERIOD` (R11, R155). -/
def Config.hotPeriod : Nat := 1000

/-- `HOT_THRESHOLD`; a count must exceed it (R11, R156). -/
def Config.hotThreshold : Nat := 1000

/-- FREE VALUE (log 1): `STACK_CAPACITY - 1`; R12 forbids assuming more than `STACK_CAPACITY >= 1`. -/
opaque Config.stackCapacityLessOne : Nat

/-- FREE VALUE (log 1): decides `PROG_CAPACITY`, of which R12 lets a model assume only its range. -/
opaque Config.progCapacityLessOne : Nat

/-- FREE VALUE (log 1): `ICACHE_ENTRIES`, any natural number (R12). -/
opaque Config.icacheEntries : Nat

/-- FREE VALUE (log 2): `MEM_INIT`, the byte at an address in the draw a given INIT makes (R35, D21; a new INIT makes a new
draw, R292). -/
opaque Config.memInit : (draw : Nat) → (address : Nat) → Byte

/-- FREE VALUE (log 3): `last_insn` after a given INIT, before the first fetch (R43, I5). -/
opaque Config.lastInsnInit : (draw : Nat) → Record

/-- FREE VALUE (log 4): the order in which a given cache maintenance prefers program indices, where not all fit
(R156, I6). -/
opaque Config.cacheOrder : (draw : Nat) → List Nat

/-- The parameters of the unit as built: the spec's defaults where R11 gives one, an unconstrained legal value where it
gives none (log 1). -/
def Params.asBuilt : Params where
  opcodes := .standard
  dataEndian := .little
  stackCapacity := Nat.succ Config.stackCapacityLessOne
  progCapacity := Nat.succ (Config.progCapacityLessOne % (2 ^ 32 - 1))
  icacheEntries := Config.icacheEntries
  memcpyFields := .positional
  memcpyBound := .strict
  retCheckTarget := true

end Sys2Proof
end

