-- ==== Sys2Proof/Syntax.lean ====
section
/-! DEFINITION. The closed set of 21 operations (spec/00_scope.md R3) with the record fields each of them uses
(spec/30_encoding.md R95). A register operand is carried as the field's full value, because R96 checks it when the
instruction executes and never truncates it. A field marked `-` in R95 is no argument: R98 ignores it. -/

namespace Sys2Proof

/-- The operations, by mnemonic (R3, R92, R93). -/
inductive Opcode where
  | halt | load | add | sub | mul | div | mod | cmp
  | jmp | jeq | jne | jgt | jlt | jge
  | push | pop | store | loadMem | memcpy | call | ret
  deriving DecidableEq, Repr

/-- One instruction with its operands (R95). A `Byte` argument is the `dest_reg` field; a `Word` argument is `operand1`, the
second one `operand2`. -/
inductive Instr where
  | halt
  | load (rd : Byte) (imm : Word)
  | add (rd : Byte) (rs1 rs2 : Word)
  | sub (rd : Byte) (rs1 rs2 : Word)
  | mul (rd : Byte) (rs1 rs2 : Word)
  | div (rd : Byte) (rs1 rs2 : Word)
  | mod (rd : Byte) (rs1 rs2 : Word)
  | cmp (rs1 rs2 : Word)
  | jmp (target : Word)
  | jeq (target : Word)
  | jne (target : Word)
  | jgt (target : Word)
  | jlt (target : Word)
  | jge (target : Word)
  | push (rs : Byte)
  | pop (rd : Byte)
  | store (rs : Byte) (addr : Word)
  | loadMem (rd : Byte) (addr : Word)
  /-- The three fields as they stand; `MEMCPY_FIELDS` says what they mean (R97). -/
  | memcpy (dest : Byte) (src len : Word)
  | call (target : Word)
  | ret
  deriving DecidableEq, Repr

/-- The operation an instruction is of. -/
def Instr.opcode : Instr → Opcode
  | .halt => .halt
  | .load _ _ => .load
  | .add _ _ _ => .add
  | .sub _ _ _ => .sub
  | .mul _ _ _ => .mul
  | .div _ _ _ => .div
  | .mod _ _ _ => .mod
  | .cmp _ _ => .cmp
  | .jmp _ => .jmp
  | .jeq _ => .jeq
  | .jne _ => .jne
  | .jgt _ => .jgt
  | .jlt _ => .jlt
  | .jge _ => .jge
  | .push _ => .push
  | .pop _ => .pop
  | .store _ _ => .store
  | .loadMem _ _ => .loadMem
  | .memcpy _ _ _ => .memcpy
  | .call _ => .call
  | .ret => .ret

end Sys2Proof
end

