-- ==== Sys2Proof/WellFormed.lean ====
section
/-! DEFINITION. When an instruction is well formed: each field that R95 reads as a register index names one of the 16
registers (spec/30_encoding.md R96). Every legal record decodes (R99), an ill-formed one too, and running an ill-formed
instruction fails as R145 says; well-formedness is what an assembler's `R0` to `R15` guarantees (R19, R100). -/

namespace Sys2Proof

/-- A register index is valid if and only if it is `< 16` (R96). -/
def regIndexOk (v : Nat) : Bool := decide (v < Config.nreg)

/-- The register fields of an instruction all name registers. MEMCPY's fields are registers only under
`MEMCPY_FIELDS = REGISTER_INDIRECT` (R97, R247). -/
def Instr.wellFormed (mf : MemcpyFields) : Instr → Bool
  | .halt => true
  | .load rd _ => regIndexOk rd.toNat
  | .add rd a b => regIndexOk rd.toNat && regIndexOk a.toNat && regIndexOk b.toNat
  | .sub rd a b => regIndexOk rd.toNat && regIndexOk a.toNat && regIndexOk b.toNat
  | .mul rd a b => regIndexOk rd.toNat && regIndexOk a.toNat && regIndexOk b.toNat
  | .div rd a b => regIndexOk rd.toNat && regIndexOk a.toNat && regIndexOk b.toNat
  | .mod rd a b => regIndexOk rd.toNat && regIndexOk a.toNat && regIndexOk b.toNat
  | .cmp a b => regIndexOk a.toNat && regIndexOk b.toNat
  | .jmp _ => true
  | .jeq _ => true
  | .jne _ => true
  | .jgt _ => true
  | .jlt _ => true
  | .jge _ => true
  | .push rs => regIndexOk rs.toNat
  | .pop rd => regIndexOk rd.toNat
  | .store rs _ => regIndexOk rs.toNat
  | .loadMem rd _ => regIndexOk rd.toNat
  | .memcpy d a b =>
    match mf with
    | .positional => true
    | .registerIndirect => regIndexOk d.toNat && regIndexOk a.toNat && regIndexOk b.toNat
  | .call _ => true
  | .ret => true

end Sys2Proof
end

