-- ==== Sys2Proof/Decode.lean ====
section
/-! DEFINITION. The decoder, total on every record and on every byte string, and the encoder, both from the one format of
spec/30_encoding.md (R90 to R99). -/

namespace Sys2Proof

/-! ### Fields and opcode numbers -/

/-- `W[7:0]` (R90). -/
def opcodeField (w : Record) : Byte := w.extractLsb' 0 8

/-- `W[15:8]` (R90). -/
def destField (w : Record) : Byte := w.extractLsb' 8 8

/-- `W[47:16]` (R90). -/
def operand1Field (w : Record) : Word := w.extractLsb' 16 32

/-- `W[79:48]` (R90). -/
def operand2Field (w : Record) : Word := w.extractLsb' 48 32

/-- The opcode values of R92, and the numbers `OPC_CALL` and `OPC_RET` of R93 for CALL and RET. -/
def Opcode.code (n : OpcodeNums) : Opcode → Byte
  | .halt => 0
  | .load => 1
  | .add => 2
  | .sub => 3
  | .mul => 4
  | .div => 5
  | .mod => 6
  | .cmp => 7
  | .jmp => 8
  | .jeq => 9
  | .jne => 10
  | .jgt => 11
  | .jlt => 12
  | .jge => 13
  | .push => 14
  | .pop => 15
  | .store => 16
  | .loadMem => 17
  | .memcpy => 18
  | .call => n.call
  | .ret => n.ret

/-- The closed enumeration (R93). -/
def Opcode.all : List Opcode :=
  [.halt, .load, .add, .sub, .mul, .div, .mod, .cmp, .jmp, .jeq, .jne, .jgt, .jlt, .jge, .push, .pop, .store, .loadMem,
    .memcpy, .call, .ret]

/-- The operation an opcode byte selects; none for an illegal one (R94). -/
def Opcode.ofByte (n : OpcodeNums) (b : Byte) : Option Opcode := Opcode.all.find? fun o => o.code n == b

/-- The opcodes that use `dest_reg` (R95). -/
def Opcode.usesDest : Opcode → Bool
  | .halt => false
  | .load => true
  | .add => true
  | .sub => true
  | .mul => true
  | .div => true
  | .mod => true
  | .cmp => false
  | .jmp => false
  | .jeq => false
  | .jne => false
  | .jgt => false
  | .jlt => false
  | .jge => false
  | .push => true
  | .pop => true
  | .store => true
  | .loadMem => true
  | .memcpy => true
  | .call => false
  | .ret => false

/-- The opcodes that use `operand1` (R95). -/
def Opcode.usesOperand1 : Opcode → Bool
  | .halt => false
  | .load => true
  | .add => true
  | .sub => true
  | .mul => true
  | .div => true
  | .mod => true
  | .cmp => true
  | .jmp => true
  | .jeq => true
  | .jne => true
  | .jgt => true
  | .jlt => true
  | .jge => true
  | .push => false
  | .pop => false
  | .store => true
  | .loadMem => true
  | .memcpy => true
  | .call => true
  | .ret => false

/-- The opcodes that use `operand2` (R95). -/
def Opcode.usesOperand2 : Opcode → Bool
  | .halt => false
  | .load => false
  | .add => true
  | .sub => true
  | .mul => true
  | .div => true
  | .mod => true
  | .cmp => true
  | .jmp => false
  | .jeq => false
  | .jne => false
  | .jgt => false
  | .jlt => false
  | .jge => false
  | .push => false
  | .pop => false
  | .store => false
  | .loadMem => false
  | .memcpy => true
  | .call => false
  | .ret => false

/-! ### Decoding -/

/-- Why bytes do not decode. -/
inductive DecodeError where
  /-- The opcode byte is none of the closed enumeration's (R94). -/
  | illegalOpcode (opcode : Byte)
  /-- Fewer than the 10 bytes of a serialized record are left (R91). -/
  | truncated (bytesLeft : Nat)
  deriving DecidableEq, Repr

/-- The instruction a legal opcode makes of a record's fields (R95). -/
def assemble (w : Record) : Opcode → Instr
  | .halt => .halt
  | .load => .load (destField w) (operand1Field w)
  | .add => .add (destField w) (operand1Field w) (operand2Field w)
  | .sub => .sub (destField w) (operand1Field w) (operand2Field w)
  | .mul => .mul (destField w) (operand1Field w) (operand2Field w)
  | .div => .div (destField w) (operand1Field w) (operand2Field w)
  | .mod => .mod (destField w) (operand1Field w) (operand2Field w)
  | .cmp => .cmp (operand1Field w) (operand2Field w)
  | .jmp => .jmp (operand1Field w)
  | .jeq => .jeq (operand1Field w)
  | .jne => .jne (operand1Field w)
  | .jgt => .jgt (operand1Field w)
  | .jlt => .jlt (operand1Field w)
  | .jge => .jge (operand1Field w)
  | .push => .push (destField w)
  | .pop => .pop (destField w)
  | .store => .store (destField w) (operand1Field w)
  | .loadMem => .loadMem (destField w) (operand1Field w)
  | .memcpy => .memcpy (destField w) (operand1Field w) (operand2Field w)
  | .call => .call (operand1Field w)
  | .ret => .ret

/-- Decoding is total: a record is one of the 21 operations with its fields, or an illegal opcode (R99, R142). -/
def decode (n : OpcodeNums) (w : Record) : Except DecodeError Instr :=
  match Opcode.ofByte n (opcodeField w) with
  | some o => .ok (assemble w o)
  | none => .error (.illegalOpcode (opcodeField w))

/-! ### Encoding -/

/-- `W = operand2 ++ operand1 ++ dest_reg ++ opcode` (R90). -/
def pack (n : OpcodeNums) (o : Opcode) (d : Byte) (a b : Word) : Record := b ++ a ++ d ++ o.code n

/-- The record of an instruction, its ignored fields 0 (R95, R98). -/
def encode (n : OpcodeNums) : Instr → Record
  | .halt => pack n .halt 0 0 0
  | .load rd imm => pack n .load rd imm 0
  | .add rd a b => pack n .add rd a b
  | .sub rd a b => pack n .sub rd a b
  | .mul rd a b => pack n .mul rd a b
  | .div rd a b => pack n .div rd a b
  | .mod rd a b => pack n .mod rd a b
  | .cmp a b => pack n .cmp 0 a b
  | .jmp t => pack n .jmp 0 t 0
  | .jeq t => pack n .jeq 0 t 0
  | .jne t => pack n .jne 0 t 0
  | .jgt t => pack n .jgt 0 t 0
  | .jlt t => pack n .jlt 0 t 0
  | .jge t => pack n .jge 0 t 0
  | .push rs => pack n .push rs 0 0
  | .pop rd => pack n .pop rd 0 0
  | .store rs addr => pack n .store rs addr 0
  | .loadMem rd addr => pack n .loadMem rd addr 0
  | .memcpy d a b => pack n .memcpy d a b
  | .call t => pack n .call 0 t 0
  | .ret => pack n .ret 0 0 0

/-! ### The serialized form -/

/-- Byte `k` of a serialized record is `W[8k+7:8k]` (R91). -/
def serialize (w : Record) : List Byte := (List.range 10).map fun k => w.extractLsb' (8 * k) 8

/-- A serialized program: its records one after another (R91). -/
def serializeProgram (rs : List Record) : List Byte := rs.flatMap serialize

/-- The records of a serialized program: 10 bytes each, no padding (R91). -/
def deserialize : List Byte → Except DecodeError (List Record)
  | [] => .ok []
  | b0 :: b1 :: b2 :: b3 :: b4 :: b5 :: b6 :: b7 :: b8 :: b9 :: rest =>
    match deserialize rest with
    | .ok rs => .ok ((b9 ++ b8 ++ b7 ++ b6 ++ b5 ++ b4 ++ b3 ++ b2 ++ b1 ++ b0) :: rs)
    | .error e => .error e
  | bs => .error (.truncated bs.length)

/-- The first instruction of a byte string and the bytes after it (R91, R102). -/
def decodeBytes (n : OpcodeNums) : List Byte → Except DecodeError (Instr × List Byte)
  | b0 :: b1 :: b2 :: b3 :: b4 :: b5 :: b6 :: b7 :: b8 :: b9 :: rest =>
    match decode n (b9 ++ b8 ++ b7 ++ b6 ++ b5 ++ b4 ++ b3 ++ b2 ++ b1 ++ b0) with
    | .ok i => .ok (i, rest)
    | .error e => .error e
  | bs => .error (.truncated bs.length)

/-- The record whose low `nbits` bits are those of `w` and whose other bits are 0. -/
def tableRecord (nbits w : Nat) : Record := BitVec.ofNat 80 (w % 2 ^ nbits)

/-- The host's question: the instruction the decoder reads from a table row's bits. R91's byte `k` is `W[8k+7:8k]`, so the
table's numbering of the bits is the record's own and its numbers of CALL and RET are the default ones. -/
def decodeTableWord (nbits w : Nat) : Option Instr :=
  match decodeBytes .standard (serialize (tableRecord nbits w)) with
  | .ok (i, _) => some i
  | .error _ => none

end Sys2Proof
end

