-- ==== Sys2Proof/Machine/State.lean ====
section
/-! DEFINITION. The state of the unit (spec/10_state.md R20), the host commands that wait for it, what it answers and what
its observer port emits, as plain data; and the unit right after reset (spec/70_reset_and_hazards.md R290). -/

namespace Sys2Proof.Machine

/-! ### Failures -/

/-- The closed taxonomy of failure kinds, in the order of their codes (R261). -/
inductive Kind where
  | outOfMemory | memoryAccessViolation | stackOverflow | stackUnderflow | invalidInstruction | unsupportedOperation
  | divisionByZero | typeMismatch | resourceExhausted | invalidConfiguration | invalidFunctionCall | invalidMemoryAccess
  | invalidAlignment | securityViolation | integerOverflow | integerUnderflow
  deriving DecidableEq, Repr

/-- The cause codes of R262: 1 to 13 are run failures, 16 to 21 failures of host commands. -/
inductive Cause where
  | badRegDest | badRegOp1 | badRegOp2 | badTarget | badReturn | stackEmpty | stackFull | illegalOpcode | memBounds
  | copyBounds | divZero | arithOverflow | arithUnderflow
  | emptyProgram | progTooLong | notLoaded | badRegIndex | badConfig | noEngine
  deriving DecidableEq, Repr

/-- The error record of the last run failure, each field of its width in R41. -/
structure ErrRecord where
  valid : Bool
  kind : BitVec 4
  cause : BitVec 5
  pc : Word
  opc : Byte
  deriving DecidableEq, Repr

/-- The error record when no failure is recorded: all zeros (R41). -/
def ErrRecord.clear : ErrRecord := { valid := false, kind := 0, cause := 0, pc := 0, opc := 0 }

/-! ### Flags, engine states, memory -/

/-- `cmp_flag`: the sign of `Rs1 - Rs2` of the last CMP (R30). -/
inductive CmpFlag where
  /-- `-1` -/
  | less
  /-- `0` -/
  | equal
  /-- `+1` -/
  | greater
  deriving DecidableEq, Repr

/-- `engine_state` (R39). -/
inductive EngineState where
  | idle | loaded | running | halted | failed
  deriving DecidableEq, Repr

/-- The bytes of data memory written since INIT, by address (R35). An address that is not listed has not been written: it
holds the byte of INIT's draw (log 2). -/
abbrev Memory := List Host.Cell

/-- The instruction cache: pairs of a program index and a record (R47), rising by index. -/
abbrev ICache := List (Nat × Record)

/-! ### The host's side -/

/-- The host commands (R120). -/
inductive HostCmd where
  | init (memorySize : Nat)
  | teardown
  | loadProgram (records : List Record)
  | run
  | getRegister (index : Nat)
  | snapshot
  deriving DecidableEq, Repr

/-- What SNAPSHOT returns of the machine (R131). -/
structure Snapshot where
  pc : Word
  cmpFlag : CmpFlag
  stackDepth : Nat
  registers : Vector Word 16
  lastInstruction : Option Record
  deriving DecidableEq, Repr

/-- The status registers S0 to S6 (R44). -/
structure StatusRegs where
  status : BitVec 32
  pc : BitVec 32
  sp : BitVec 32
  progLen : BitVec 32
  memSize : BitVec 33
  errPc : BitVec 32
  lastInsn : BitVec 80
  deriving DecidableEq, Repr

/-- A response: success with or without a value, or a failure `(kind, cause)` (R120). -/
inductive Response where
  | done
  | register (value : Word)
  | snapshot (snap : Snapshot) (regs : StatusRegs)
  | failure (kind : Kind) (cause : Cause)
  deriving DecidableEq, Repr

/-! ### The observer port -/

/-- The outcome an END event carries (R160). -/
inductive EndOutcome where
  | ok | fail
  deriving DecidableEq, Repr

/-- The architectural state a receiver sees at an event (R160: "may read pc, registers, stack length, cmp_flag"). -/
structure View where
  pc : Word
  regs : Vector Word 16
  stackDepth : Nat
  cmpFlag : CmpFlag
  deriving DecidableEq, Repr

/-- The observer port's events (R160, R161). -/
inductive Event where
  | beginInsn (pc : Word) (record : Record) (view : View)
  | endInsn (pc : Word) (record : Record) (outcome : EndOutcome) (nextPc : Word) (view : View)
  | memAccess (address : Word) (isWrite : Bool) (size : Nat) (value : Word)
  deriving DecidableEq, Repr

/-! ### The state -/

/-- The unit's state, with the rule that names each element. -/
structure State where
  /-- The implementation parameters (R11); no step changes them. -/
  params : Params
  /-- An engine exists: INIT has made one and TEARDOWN has not ended it (R123, R124). -/
  live : Bool
  /-- `x[0..15]` (R22). -/
  regs : Vector Word 16
  /-- The program counter, a program index (R26). -/
  pc : Word
  /-- The comparison flag (R30). -/
  cmpFlag : CmpFlag
  /-- The stack, its top first (R31); its length is `sp` (R32). -/
  stack : List Word
  /-- Data memory (R35). -/
  mem : Memory
  /-- MODEL's own: which draw of `MEM_INIT` and of `last_insn` the engine's INIT made (R35, R43, R292). -/
  memDraw : Nat
  /-- `cfg_mem_size` (R36). -/
  cfgMemSize : Nat
  /-- The program memory; its length is `PROG_LEN` (R37). -/
  prog : List Record
  /-- `engine_state` (R39). -/
  engineState : EngineState
  /-- The error record `err_*` (R41). -/
  err : ErrRecord
  /-- `last_insn` (R43). -/
  lastInsn : Record
  /-- `last_valid` (R43). -/
  lastValid : Bool
  /-- `exec_count[0..PROG_LEN-1]`, 32-bit saturating counters (R46). -/
  execCount : List (BitVec 32)
  /-- `icache` (R47). -/
  icache : ICache
  /-- MODEL's own: how many free choices cache maintenance has made (R156). -/
  cacheDraw : Nat
  /-- MODEL's own: the commands the host has issued and the unit has not taken yet, oldest first (R120, R122). -/
  pending : List HostCmd
  /-- The response to the last command taken; none while a RUN has not ended (R120, R128). -/
  response : Option Response
  /-- What the observer port emitted in the last step that ran an instruction or a command, oldest first (R160). -/
  events : List Event
  deriving DecidableEq, Repr

/-- Why a step stops the machine. The spec stops it nowhere: every failure of an instruction or of a host command is a next
state, with the error record and `engine_state` written or the failure in the response (R260, R268, R270). -/
inductive Fault where
  deriving DecidableEq, Repr

/-- Why an instruction has no meaning. -/
inductive Refusal where
  /-- Raised by an arm of `exec` whose instruction is not modelled; no arm raises it, as every instruction has its meaning.
  Safe: the machine stops where the hardware goes on. -/
  | notModelled (mnemonic : String)
  deriving DecidableEq, Repr

/-- What a meaning answers. -/
abbrev Out := Host.Outcome State Fault Refusal

/-! ### Reset -/

/-- The unit right after an accepted INIT (R290), with `draw` the INIT's draw of memory and of `last_insn`. -/
def State.afterInit (p : Params) (memorySize draw cacheDraw : Nat) (pending : List HostCmd) : State where
  params := p
  live := true
  regs := Vector.replicate 16 0
  pc := 0
  cmpFlag := .equal
  stack := []
  mem := []
  memDraw := draw
  cfgMemSize := memorySize
  prog := []
  engineState := .idle
  err := ErrRecord.clear
  lastInsn := Config.lastInsnInit draw
  lastValid := false
  execCount := []
  icache := []
  cacheDraw := cacheDraw
  pending := pending
  response := some .done
  events := []

/-- The unit after an INIT with the default `memory_size` (R290, R11), no command waiting (log 6). -/
def State.reset : State := State.afterInit Params.asBuilt Config.defaultMemSize 0 0 []

end Sys2Proof.Machine
end

