-- ==== Sys2Proof/Machine/Ops.lean ====
section
/-! DEFINITION. The operations the meanings share: data memory, the register file, the stack, the counters and the
instruction cache, the observer port, and the three ways a dispatched instruction ends (spec/40_fetch_dispatch.md R132):
`advance` (`Next(t)`), `stop` (`Stop`) and `raise` (`Fail(kind, cause)`, the unit's only trap entry, R268). -/

namespace Sys2Proof

/-- Where byte `k` of a word stands from the word's address, and which byte of the word stands `k` after it: `k` itself in
little-endian order (R62), `3 - k` in the other (log 23). -/
def Endian.lane : Endian → Nat → Nat
  | .little, k => k
  | .big, k => 3 - k

end Sys2Proof

namespace Sys2Proof.Machine

/-! ### Data memory -/

/-- The canonical form: addresses strictly rising (log 2). -/
abbrev Memory.wf (m : Memory) : Prop := m.Pairwise fun c d => c.1 < d.1

/-- The byte written at an address since INIT, if any. -/
def Memory.lookup (a : Nat) : Memory → Option Byte
  | [] => none
  | c :: m => if c.1 = a then some c.2 else Memory.lookup a m

/-- Writing one byte. -/
def Memory.store (a : Nat) (b : Byte) : Memory → Memory
  | [] => [(a, b)]
  | c :: m =>
    if a < c.1 then (a, b) :: c :: m
    else if a = c.1 then (a, b) :: m
    else c :: Memory.store a b m

/-- What an address reads as: the byte last written there, else the byte of INIT's draw (R74). -/
def Memory.read (draw : Nat) (m : Memory) (a : Nat) : Byte := (m.lookup a).getD (Config.memInit draw a)

/-- `MemRead(a, 4)`, in the unit's byte order: for `LITTLE`, `mem[a+3] ++ mem[a+2] ++ mem[a+1] ++ mem[a]` (R62). -/
def Memory.readWord (e : Endian) (draw : Nat) (m : Memory) (a : Nat) : Word :=
  m.read draw (a + e.lane 3) ++ m.read draw (a + e.lane 2) ++ m.read draw (a + e.lane 1) ++ m.read draw (a + e.lane 0)

/-- Byte `k` of a word, `v[8k+7:8k]`. -/
def byteOf (v : Word) (k : Nat) : Byte := v.extractLsb' (8 * k) 8

/-- `MemWrite(a, 4, v)`, in the unit's byte order: for `LITTLE`, `mem[a]` gets `v[7:0]` and `mem[a+3]` gets `v[31:24]`
(R62). -/
def Memory.writeWord (e : Endian) (m : Memory) (a : Nat) (v : Word) : Memory :=
  (((m.store a (byteOf v (e.lane 0))).store (a + 1) (byteOf v (e.lane 1))).store (a + 2) (byteOf v (e.lane 2))).store
    (a + 3) (byteOf v (e.lane 3))

/-- `for i in 0 .. n-1: mem[d+i] <- mem[s+i]` (R245). -/
def Memory.copyForward (draw : Nat) : (d s n : Nat) → Memory → Memory
  | _, _, 0, m => m
  | d, s, n + 1, m => Memory.copyForward draw (d + 1) (s + 1) n (m.store d (m.read draw s))

/-- `for i in n-1 down to 0: mem[d+i] <- mem[s+i]` (R245). -/
def Memory.copyBackward (draw : Nat) (d s : Nat) : (n : Nat) → Memory → Memory
  | 0, m => m
  | n + 1, m => Memory.copyBackward draw d s n (m.store (d + n) (m.read draw (s + n)))

/-- The copy of R245 in the direction that is safe for overlap. -/
def Memory.copy (draw : Nat) (d s n : Nat) (m : Memory) : Memory :=
  if d < s then m.copyForward draw d s n
  else if s < d then m.copyBackward draw d s n
  else m

/-! ### Reading the state -/

/-- `x[i]`, for an index that has been checked (R24). -/
def State.readReg (s : State) (i : Fin 16) : Word := s.regs[i]

/-- `sp`: the number of entries on the stack (R32). -/
def State.sp (s : State) : Nat := s.stack.length

/-- `stack[i]`, index 0 the oldest entry; none at and above `sp` (R32). -/
def State.stackEntry (s : State) (i : Nat) : Option Word := s.stack.reverse[i]?

/-- `PROG_LEN` (R37). -/
def State.progLen (s : State) : Nat := s.prog.length

/-- The data byte at an address (R35, R74). -/
def State.readByte (s : State) (a : Nat) : Byte := s.mem.read s.memDraw a

/-- `MemRead(a, 4)` of the state's data memory (R62). -/
def State.readWord (s : State) (a : Nat) : Word := s.mem.readWord s.params.dataEndian s.memDraw a

/-- Data memory after `MemWrite(a, 4, v)` (R62). -/
def State.wordWritten (s : State) (a : Nat) (v : Word) : Memory := s.mem.writeWord s.params.dataEndian a v

/-- `exec_count[p]` (R46). -/
def State.count (s : State) (p : Nat) : BitVec 32 := s.execCount.getD p 0

/-- What a receiver of the observer port sees (R160). -/
def State.view (s : State) : View := { pc := s.pc, regs := s.regs, stackDepth := s.sp, cmpFlag := s.cmpFlag }

/-! ### Changing the state, one element at a time -/

/-- `x[i] <- v` (R15). -/
def State.writeReg (s : State) (i : Fin 16) (v : Word) : State := { s with regs := s.regs.set i v }

/-- `pc <- t` (R15). -/
def State.setPc (s : State) (t : Word) : State := { s with pc := t }

/-- `cmp_flag <- f` (R182). -/
def State.setCmpFlag (s : State) (f : CmpFlag) : State := { s with cmpFlag := f }

/-- The stack after a push or a pop (R220). -/
def State.setStack (s : State) (st : List Word) : State := { s with stack := st }

/-- Data memory after a store or a copy. -/
def State.setMem (s : State) (m : Memory) : State := { s with mem := m }

/-- The counters after a dispatch (R154). -/
def State.setExecCount (s : State) (c : List (BitVec 32)) : State := { s with execCount := c }

/-- The cache after maintenance that made no free choice (R156). -/
def State.setICache (s : State) (c : ICache) : State := { s with icache := c }

/-- The next maintenance's free choice is a fresh one. -/
def State.setCacheDraw (s : State) (n : Nat) : State := { s with cacheDraw := n }

/-- `engine_state <- e` (R132). -/
def State.setEngine (s : State) (e : EngineState) : State := { s with engineState := e }

/-- Writing the error record (R41). -/
def State.setErr (s : State) (e : ErrRecord) : State := { s with err := e }

/-- Giving the response to a command (R120). -/
def State.respond (s : State) (r : Response) : State := { s with response := some r }

/-- `last_insn <- r; last_valid <- 1` (R140). -/
def State.setLastInsn (s : State) (r : Record) : State := { s with lastInsn := r, lastValid := true }

/-- The observer port emits an event (R160, R161). -/
def State.emit (s : State) (e : Event) : State := { s with events := s.events ++ [e] }

/-- A new step's events start from none. -/
def State.clearEvents (s : State) : State := { s with events := [] }

/-- `Push(v)` (R220). -/
def State.pushWord (s : State) (v : Word) : State := s.setStack (v :: s.stack)

/-- The stack after `Pop()` (R220). -/
def State.dropTop (s : State) : State := s.setStack s.stack.tail

/-! ### Execution counters and the instruction cache -/

/-- `Sat(c + 1)`: a 32-bit counter saturates at `2^32 - 1` (R46, R154). -/
def satSucc (c : BitVec 32) : BitVec 32 := if c = BitVec.allOnes 32 then c else c + 1

/-- `exec_count[pc] <- Sat(exec_count[pc] + 1)` (R132). -/
def State.countDispatch (s : State) : State := s.setExecCount (s.execCount.set s.pc.toNat (satSucc (s.count s.pc.toNat)))

/-- The record the cache holds for an index, if any (R47). -/
def ICache.lookup (p : Nat) : ICache → Option Record
  | [] => none
  | c :: m => if c.1 = p then some c.2 else ICache.lookup p m

/-- Inserting a pair for an index the cache does not hold. -/
def ICache.insert (p : Nat) (r : Record) : ICache → ICache
  | [] => [(p, r)]
  | c :: m => if p < c.1 then (p, r) :: c :: m else c :: ICache.insert p r m

/-- The indices cache maintenance would insert: counted more than `HOT_THRESHOLD` times and not in the cache (R156). -/
def State.hotCandidates (s : State) : List Nat :=
  (List.range s.progLen).filter fun p =>
    decide (Config.hotThreshold < (s.count p).toNat) && (s.icache.lookup p).isNone

/-- The cache with a pair `(p, prog[p])` inserted for every given index. -/
def State.icacheWith (s : State) (ps : List Nat) : ICache :=
  ps.foldl (fun c p => match s.prog[p]? with
    | some r => ICache.insert p r c
    | none => c) s.icache

/-- Which `room` of the given indices are kept: the first in a free order (R156, log 4). -/
def chosen (draw room : Nat) (pool : List Nat) : List Nat :=
  (((Config.cacheOrder draw).filter fun p => pool.contains p) ++ pool).eraseDups.take room

/-- `Maintain()` (R156). While every candidate fits, all are inserted; where they do not, a free choice of
`ICACHE_ENTRIES` of the cached and candidate pairs is kept, so that the order of insertion and the replacement of a pair by
another valid one are free (D29). -/
def State.maintain (s : State) : State :=
  match s.hotCandidates with
  | [] => s
  | p :: ps =>
    let full := s.icacheWith (p :: ps)
    if full.length ≤ s.params.icacheEntries then s.setICache full
    else
      let keep := chosen s.cacheDraw s.params.icacheEntries (full.map fun c => c.1)
      (s.setICache (full.filter fun c => keep.contains c.1)).setCacheDraw (s.cacheDraw + 1)

/-! ### How a dispatched instruction ends -/

/-- The 4-bit kind code (R261). -/
def Kind.code : Kind → BitVec 4
  | .outOfMemory => 0
  | .memoryAccessViolation => 1
  | .stackOverflow => 2
  | .stackUnderflow => 3
  | .invalidInstruction => 4
  | .unsupportedOperation => 5
  | .divisionByZero => 6
  | .typeMismatch => 7
  | .resourceExhausted => 8
  | .invalidConfiguration => 9
  | .invalidFunctionCall => 10
  | .invalidMemoryAccess => 11
  | .invalidAlignment => 12
  | .securityViolation => 13
  | .integerOverflow => 14
  | .integerUnderflow => 15

/-- The 5-bit cause code (R262). -/
def Cause.code : Cause → BitVec 5
  | .badRegDest => 1
  | .badRegOp1 => 2
  | .badRegOp2 => 3
  | .badTarget => 4
  | .badReturn => 5
  | .stackEmpty => 6
  | .stackFull => 7
  | .illegalOpcode => 8
  | .memBounds => 9
  | .copyBounds => 10
  | .divZero => 11
  | .arithOverflow => 12
  | .arithUnderflow => 13
  | .emptyProgram => 16
  | .progTooLong => 17
  | .notLoaded => 18
  | .badRegIndex => 19
  | .badConfig => 20
  | .noEngine => 21

/-- The kind a cause belongs to (R262). -/
def Cause.kind : Cause → Kind
  | .badRegDest => .invalidInstruction
  | .badRegOp1 => .invalidInstruction
  | .badRegOp2 => .invalidInstruction
  | .badTarget => .invalidInstruction
  | .badReturn => .invalidInstruction
  | .stackEmpty => .invalidInstruction
  | .stackFull => .stackOverflow
  | .illegalOpcode => .invalidInstruction
  | .memBounds => .memoryAccessViolation
  | .copyBounds => .memoryAccessViolation
  | .divZero => .divisionByZero
  | .arithOverflow => .integerOverflow
  | .arithUnderflow => .integerUnderflow
  | .emptyProgram => .invalidInstruction
  | .progTooLong => .resourceExhausted
  | .notLoaded => .invalidInstruction
  | .badRegIndex => .invalidInstruction
  | .badConfig => .invalidConfiguration
  | .noEngine => .invalidConfiguration

/-- The response `(kind, cause)` of a failure (R120). -/
def Cause.response (c : Cause) : Response := .failure c.kind c

/-- What a failure writes to the error record: the failing instruction's index and opcode byte are those of `pc` and of the
record just fetched (R132, R263). -/
def State.errOf (s : State) (c : Cause) : ErrRecord where
  valid := true
  kind := c.kind.code
  cause := c.code
  pc := s.pc
  opc := s.lastInsn.extractLsb' 0 8

/-- The END event of the instruction that `pc` and `last_insn` name (R160). -/
def State.emitEnd (s : State) (o : EndOutcome) (nextPc : Word) : State :=
  s.emit (.endInsn s.pc s.lastInsn o nextPc s.view)

/-- `pc <- t`, then cache maintenance if `t` is a multiple of `HOT_PERIOD` (R132, R155). -/
def State.moveTo (s : State) (t : Word) : State :=
  if t.toNat % Config.hotPeriod = 0 then (s.setPc t).maintain else s.setPc t

/-- `Next(t)`: the instruction is counted, END is emitted, `pc` moves (R132). -/
def advance (t : Word) (s : State) : Out := .next ((s.countDispatch.emitEnd .ok t).moveTo t)

/-- `Stop`: the instruction is counted, END is emitted, the run ends `Halted` with success (R132, R135). -/
def stop (s : State) : Out :=
  .next (((s.countDispatch.emitEnd .ok s.pc).setEngine .halted).respond .done)

/-- TAKING A FAILURE, `Fail(kind, cause)`: END is emitted with outcome FAIL, the error record is written, the run ends
`Failed` and the RUN command's response is the failure; `pc` stays (R132, R136, R268). -/
def raise (c : Cause) (s : State) : Out :=
  .next ((((s.emitEnd .fail s.pc).setErr (s.errOf c)).setEngine .failed).respond c.response)

/-- The way back from a failure. There is no return instruction (R269): the error record is cleared when the host loads a
program (R126). -/
def State.clearErr (s : State) : State := s.setErr ErrRecord.clear

end Sys2Proof.Machine
end

