-- ==== Sys2Proof/Machine/Status.lean ====
section
/-! DEFINITION. What the host reads of the machine: SNAPSHOT's record and the status registers S0 to S6
(spec/40_fetch_dispatch.md R131; spec/10_state.md R30, R39, R44). -/

namespace Sys2Proof.Machine

/-- The 3-bit `engine_state` code (R39). -/
def EngineState.code : EngineState → BitVec 3
  | .idle => 0
  | .loaded => 1
  | .running => 2
  | .halted => 3
  | .failed => 4

/-- The 2-bit encoding of `cmp_flag`: `00` is 0, `01` is +1, `11` is -1 (R30). -/
def CmpFlag.code : CmpFlag → BitVec 2
  | .equal => 0b00
  | .greater => 0b01
  | .less => 0b11

/-- One bit. -/
def bitOf (b : Bool) : BitVec 1 := if b then 1 else 0

/-- S0 STATUS: reserved, ERR_OPC, LAST_VALID, CMP_FLAG, ERR_CAUSE, ERR_KIND, ERR_VALID, STATE, from bit 31 down (R44). -/
def State.statusWord (s : State) : BitVec 32 :=
  (0 : BitVec 8) ++ s.err.opc ++ bitOf s.lastValid ++ s.cmpFlag.code ++ s.err.cause ++ s.err.kind ++ bitOf s.err.valid ++
    s.engineState.code

/-- S0 to S6 (R44). -/
def State.statusRegs (s : State) : StatusRegs where
  status := s.statusWord
  pc := s.pc
  sp := BitVec.ofNat 32 s.sp
  progLen := BitVec.ofNat 32 s.progLen
  memSize := BitVec.ofNat 33 s.cfgMemSize
  errPc := s.err.pc
  lastInsn := s.lastInsn

/-- What SNAPSHOT returns (R131). -/
def State.snapshot (s : State) : Snapshot where
  pc := s.pc
  cmpFlag := s.cmpFlag
  stackDepth := s.sp
  registers := s.regs
  lastInstruction := if s.lastValid then some s.lastInsn else none

end Sys2Proof.Machine
end

