-- ==== Sys2Proof/Machine/Commands.lean ====
section
/-! DEFINITION. The six host commands, each one atomic transaction with a response (spec/40_fetch_dispatch.md R120 to R131).
No command is taken while the engine runs (R122): Machine/Engine.lean sees to that. -/

namespace Sys2Proof.Machine

/-- A failed command changes no state; its response is the failure (R270). -/
def State.reject (s : State) (c : Cause) : State := s.respond c.response

/-- INIT is the reset, on an existing engine too; each INIT makes a new draw (R123, R290, R292). -/
def State.init (s : State) (memorySize : Nat) : State :=
  if memorySize = 0 ∨ Config.maxMemSize < memorySize then s.reject .badConfig
  else State.afterInit s.params memorySize (s.memDraw + 1) s.cacheDraw s.pending

/-- TEARDOWN: no engine, and no state of it remains (R124; log 7). -/
def State.teardown (s : State) : State :=
  { State.afterInit s.params 0 s.memDraw s.cacheDraw s.pending with live := false, lastInsn := 0 }

/-- What an accepted LOAD_PROGRAM does, as one step (R126). -/
def State.loadRecords (s : State) (records : List Record) : State :=
  { s.clearErr with
    prog := records
    pc := 0
    engineState := .loaded
    execCount := List.replicate records.length 0
    icache := [] }

/-- LOAD_PROGRAM: rejected when empty or longer than `PROG_CAPACITY` (R125), else accepted (R126). -/
def State.loadProgram (s : State) (records : List Record) : State :=
  if records.length = 0 then s.reject .emptyProgram
  else if s.params.progCapacity < records.length then s.reject .progTooLong
  else (s.loadRecords records).respond .done

/-- RUN: `Loaded` becomes `Running` and the response waits for the run's end (R128); elsewhere it fails (R127). -/
def State.run (s : State) : State :=
  if s.engineState = .loaded then { s.setEngine .running with response := none } else s.reject .notLoaded

/-- GET_REGISTER, in any engine state (R130). -/
def State.getRegister (s : State) (index : Nat) : State :=
  if h : index < 16 then s.respond (.register (s.readReg ⟨index, h⟩)) else s.reject .badRegIndex

/-- SNAPSHOT, in any engine state (R131). -/
def State.takeSnapshot (s : State) : State := s.respond (.snapshot s.snapshot s.statusRegs)

/-- One command. Without an engine every command but INIT fails with `NO_ENGINE` (R123; log 8). -/
def State.command (s : State) (c : HostCmd) : State :=
  match c with
  | .init n => s.init n
  | .teardown => if s.live then s.teardown else s.reject .noEngine
  | .loadProgram rs => if s.live then s.loadProgram rs else s.reject .noEngine
  | .run => if s.live then s.run else s.reject .noEngine
  | .getRegister i => if s.live then s.getRegister i else s.reject .noEngine
  | .snapshot => if s.live then s.takeSnapshot else s.reject .noEngine

/-- The unit takes the oldest waiting command; with none waiting it keeps its state (R277; log 5). -/
def State.hostStep (s : State) : State :=
  match s.pending with
  | [] => s
  | c :: cs => ({ s.clearEvents with pending := cs }).command c

end Sys2Proof.Machine
end

