-- ==== Sys2Proof/Machine/Flags.lean ====
section
/-! DEFINITION. The comparison flag: what CMP writes (spec/41_arith.md R182) and when each jump is taken
(spec/42_control.md R202). No other instruction computes or reads a flag (spec/10_state.md R30). -/

namespace Sys2Proof.Machine

/-- The sign of `Rs1 - Rs2` on the unsigned values (R182; D24). -/
def compareFlag (a b : Word) : CmpFlag :=
  if a.toNat < b.toNat then .less
  else if a.toNat = b.toNat then .equal
  else .greater

/-- JEQ is taken when `cmp_flag = 0` (R202). -/
def takenJeq (f : CmpFlag) : Bool := decide (f = .equal)

/-- JNE is taken when `cmp_flag ≠ 0` (R202). -/
def takenJne (f : CmpFlag) : Bool := decide (f ≠ .equal)

/-- JGT is taken when `cmp_flag = +1` (R202). -/
def takenJgt (f : CmpFlag) : Bool := decide (f = .greater)

/-- JLT is taken when `cmp_flag = -1` (R202). -/
def takenJlt (f : CmpFlag) : Bool := decide (f = .less)

/-- JGE is taken when `cmp_flag ≠ -1` (R202). -/
def takenJge (f : CmpFlag) : Bool := decide (f ≠ .less)

end Sys2Proof.Machine
end

