-- ==== Sys2Proof/Machine/Operands.lean ====
section
/-! DEFINITION. The operand forms and the checks made on them (spec/40_fetch_dispatch.md R145; spec/42_control.md R201;
spec/43_stack_call.md R221; spec/20_memory.md R66, R67). Each takes what the instruction does when the check passes; when it
fails the instruction ends in `raise`, having changed nothing. -/

namespace Sys2Proof.Machine

/-! ### Register operands -/

/-- One register operand: an index `>= 16` fails with the cause of its field (R145). -/
def withReg (c : Cause) (v : Nat) (s : State) (k : Fin 16 → Out) : Out :=
  if h : v < 16 then k ⟨v, h⟩ else raise c s

/-- A register named by `dest_reg`: its 8-bit value zero-extended (R96). -/
def withDest (d : Byte) (s : State) (k : Fin 16 → Out) : Out := withReg .badRegDest d.toNat s k

/-- A register named by `operand1`: the full 32-bit value (R96). -/
def withOp1 (a : Word) (s : State) (k : Fin 16 → Out) : Out := withReg .badRegOp1 a.toNat s k

/-- A register named by `operand2`: the full 32-bit value (R96). -/
def withOp2 (b : Word) (s : State) (k : Fin 16 → Out) : Out := withReg .badRegOp2 b.toNat s k

/-- Three register operands, checked in the order `dest_reg`, `operand1`, `operand2` (R145). -/
def withThreeRegs (d : Byte) (a b : Word) (s : State) (k : Fin 16 → Fin 16 → Fin 16 → Out) : Out :=
  withDest d s fun rd => withOp1 a s fun ra => withOp2 b s fun rb => k rd ra rb

/-! ### Targets and the stack -/

/-- `CheckTarget(t)`: a target is valid if and only if it is below `PROG_LEN` (R201). -/
def withTarget (t : Word) (s : State) (k : Out) : Out := if t.toNat < s.progLen then k else raise .badTarget s

/-- `CheckNotFull()` (R221). -/
def withRoom (s : State) (k : Out) : Out := if s.sp = s.params.stackCapacity then raise .stackFull s else k

/-- `CheckNotEmpty()`, then the top entry (R220, R221). -/
def withTop (s : State) (k : Word → Out) : Out :=
  match s.stack with
  | [] => raise .stackEmpty s
  | v :: _ => k v

/-! ### Data addresses -/

/-- `WordOk(a)`: `a + 4 <= M` on mathematical integers (R66). -/
def wordOk (s : State) (a : Word) : Bool := decide (a.toNat + 4 ≤ s.cfgMemSize)

/-- A word address (R66). -/
def withWordAddr (a : Word) (s : State) (k : Out) : Out := if wordOk s a then k else raise .memBounds s

/-- `StrictOk(d, s, n)` (R67). -/
def strictOk (memSize d a n : Nat) : Bool :=
  decide (d < memSize ∧ a < memSize ∧ d + n < memSize ∧ a + n < memSize ∧ d + n < 2 ^ 32 ∧ a + n < 2 ^ 32)

/-- `RangeOk(d, s, n)` (R67). -/
def rangeOk (memSize d a n : Nat) : Bool := decide (d + n ≤ memSize ∧ a + n ≤ memSize)

/-- `CopyOk(d, s, n)`, by `MEMCPY_BOUND` (R67). -/
def copyOk (s : State) (dest src len : Word) : Bool :=
  match s.params.memcpyBound with
  | .strict => strictOk s.cfgMemSize dest.toNat src.toNat len.toNat
  | .range => rangeOk s.cfgMemSize dest.toNat src.toNat len.toNat

/-- MEMCPY's `dest`, `src` and `len`, by `MEMCPY_FIELDS` (R97, R247). -/
def withCopyOperands (d : Byte) (a b : Word) (s : State) (k : (dest src len : Word) → Out) : Out :=
  match s.params.memcpyFields with
  | .positional => k (d.setWidth 32) a b
  | .registerIndirect => withThreeRegs d a b s fun rd ra rb => k (s.readReg rd) (s.readReg ra) (s.readReg rb)

end Sys2Proof.Machine
end

