-- ==== Sys2Proof/Machine/Arith.lean ====
section
/-! DEFINITION. HALT, LOAD, the arithmetic group and CMP (spec/41_arith.md R170 to R182). Results are computed on
mathematical integers (R172); both sources are read before the destination is written (R181). -/

namespace Sys2Proof.Machine

/-- The end of ADD and MUL with exact result `v`: clamp and fail on overflow (R174), else write it. -/
def finishSum (rd : Fin 16) (v : Nat) (s : State) : Out :=
  if wordMax < v then raise .arithOverflow (s.writeReg rd (BitVec.ofNat 32 wordMax))
  else advance (s.pc + 1) (s.writeReg rd (BitVec.ofNat 32 v))

/-- The end of SUB with operands `a` and `b`: write 0 and fail on underflow (R174), else write the difference. -/
def finishDifference (rd : Fin 16) (a b : Nat) (s : State) : Out :=
  if a < b then raise .arithUnderflow (s.writeReg rd 0)
  else advance (s.pc + 1) (s.writeReg rd (BitVec.ofNat 32 (a - b)))

/-- The end of DIV and MOD with result `v`: a zero divisor fails and writes nothing (R178). -/
def finishQuotient (rd : Fin 16) (divisor v : Nat) (s : State) : Out :=
  if divisor = 0 then raise .divZero s
  else advance (s.pc + 1) (s.writeReg rd (BitVec.ofNat 32 v))

/-- HALT (R170). -/
def execHalt (s : State) : Out := stop s

/-- LOAD Rd, imm (R171). -/
def execLoad (d : Byte) (imm : Word) (s : State) : Out :=
  withDest d s fun rd => advance (s.pc + 1) (s.writeReg rd imm)

/-- ADD Rd, Rs1, Rs2 (R175). -/
def execAdd (d : Byte) (a b : Word) (s : State) : Out :=
  withThreeRegs d a b s fun rd ra rb => finishSum rd ((s.readReg ra).toNat + (s.readReg rb).toNat) s

/-- SUB Rd, Rs1, Rs2 (R176). -/
def execSub (d : Byte) (a b : Word) (s : State) : Out :=
  withThreeRegs d a b s fun rd ra rb => finishDifference rd (s.readReg ra).toNat (s.readReg rb).toNat s

/-- MUL Rd, Rs1, Rs2 (R177). -/
def execMul (d : Byte) (a b : Word) (s : State) : Out :=
  withThreeRegs d a b s fun rd ra rb => finishSum rd ((s.readReg ra).toNat * (s.readReg rb).toNat) s

/-- DIV Rd, Rs1, Rs2 (R178, R179). -/
def execDiv (d : Byte) (a b : Word) (s : State) : Out :=
  withThreeRegs d a b s fun rd ra rb =>
    finishQuotient rd (s.readReg rb).toNat ((s.readReg ra).toNat / (s.readReg rb).toNat) s

/-- MOD Rd, Rs1, Rs2 (R178, R180). -/
def execMod (d : Byte) (a b : Word) (s : State) : Out :=
  withThreeRegs d a b s fun rd ra rb =>
    finishQuotient rd (s.readReg rb).toNat
      ((s.readReg ra).toNat - (s.readReg ra).toNat / (s.readReg rb).toNat * (s.readReg rb).toNat) s

/-- CMP Rs1, Rs2 (R182). -/
def execCmp (a b : Word) (s : State) : Out :=
  withOp1 a s fun ra => withOp2 b s fun rb =>
    advance (s.pc + 1) (s.setCmpFlag (compareFlag (s.readReg ra) (s.readReg rb)))

end Sys2Proof.Machine
end

