-- ==== Sys2Proof/Machine/Control.lean ====
section
/-! DEFINITION. The jumps (spec/42_control.md R200 to R208). A jump checks its target first, taken or not (R201). -/

namespace Sys2Proof.Machine

/-- A jump with its condition already decided: `target` if taken, else `pc + 1` (R151, R201). -/
def jumpTo (taken : Bool) (t : Word) (s : State) : Out :=
  withTarget t s (advance (if taken then t else s.pc + 1) s)

/-- JMP target (R203). -/
def execJmp (t : Word) (s : State) : Out := jumpTo true t s

/-- JEQ target (R204). -/
def execJeq (t : Word) (s : State) : Out := jumpTo (takenJeq s.cmpFlag) t s

/-- JNE target (R205). -/
def execJne (t : Word) (s : State) : Out := jumpTo (takenJne s.cmpFlag) t s

/-- JGT target (R206). -/
def execJgt (t : Word) (s : State) : Out := jumpTo (takenJgt s.cmpFlag) t s

/-- JLT target (R207). -/
def execJlt (t : Word) (s : State) : Out := jumpTo (takenJlt s.cmpFlag) t s

/-- JGE target (R208). -/
def execJge (t : Word) (s : State) : Out := jumpTo (takenJge s.cmpFlag) t s

end Sys2Proof.Machine
end

