-- ==== Sys2Proof/Machine/MemoryOps.lean ====
section
/-! DEFINITION. STORE, LOAD_MEM and MEMCPY (spec/44_memory_ops.md R240 to R247). -/

namespace Sys2Proof.Machine

/-- STORE Rs, addr (R241). -/
def execStore (d : Byte) (addr : Word) (s : State) : Out :=
  withDest d s fun rs => withWordAddr addr s
    (advance (s.pc + 1)
      ((s.setMem (s.wordWritten addr.toNat (s.readReg rs))).emit (.memAccess addr true 4 (s.readReg rs))))

/-- LOAD_MEM Rd, addr (R242). -/
def execLoadMem (d : Byte) (addr : Word) (s : State) : Out :=
  withDest d s fun rd => withWordAddr addr s
    (advance (s.pc + 1)
      ((s.writeReg rd (s.readWord addr.toNat)).emit (.memAccess addr false 4 (s.readWord addr.toNat))))

/-- MEMCPY with its operands taken: a zero length succeeds before any bounds check (R244), else the check and the copy
(R245). -/
def copyBlock (dest src len : Word) (s : State) : Out :=
  if len = 0 then advance (s.pc + 1) s
  else if copyOk s dest src len then
    advance (s.pc + 1) (s.setMem (s.mem.copy s.memDraw dest.toNat src.toNat len.toNat))
  else raise .copyBounds s

/-- MEMCPY dest, src, len (R245, R247). -/
def execMemcpy (d : Byte) (a b : Word) (s : State) : Out :=
  withCopyOperands d a b s fun dest src len => copyBlock dest src len s

end Sys2Proof.Machine
end

