-- ==== Sys2Proof/Machine/Stack.lean ====
section
/-! DEFINITION. PUSH, POP, CALL and RET on the one shared stack (spec/43_stack_call.md R220 to R230). -/

namespace Sys2Proof.Machine

/-- PUSH Rs (R222). -/
def execPush (d : Byte) (s : State) : Out :=
  withDest d s fun rs => withRoom s (advance (s.pc + 1) (s.pushWord (s.readReg rs)))

/-- POP Rd (R223). -/
def execPop (d : Byte) (s : State) : Out :=
  withDest d s fun rd => withTop s fun v => advance (s.pc + 1) (s.dropTop.writeReg rd v)

/-- CALL addr: the target check comes before the capacity check (R226; D18). -/
def execCall (t : Word) (s : State) : Out :=
  withTarget t s (withRoom s (advance t (s.pushWord (s.pc + 1))))

/-- RET's check of the value on top of the stack (R227). -/
def returnOk (s : State) (v : Word) : Bool := !s.params.retCheckTarget || decide (v.toNat < s.progLen)

/-- RET: execution continues at the popped value itself (R228; D15). -/
def execRet (s : State) : Out :=
  withTop s fun v => if returnOk s v then advance v s.dropTop else raise .badReturn s

end Sys2Proof.Machine
end

