-- ==== Sys2Proof/Machine/Dispatch.lean ====
section
/-! DEFINITION. A legal opcode dispatches to its operation's rule (spec/40_fetch_dispatch.md R144). -/

namespace Sys2Proof.Machine

def exec (i : Instr) (s : State) : Host.Outcome State Fault Refusal :=
  match i with
  | .halt => Sys2Proof.Machine.execHalt s
  | .load rd imm => Sys2Proof.Machine.execLoad rd imm s
  | .add rd rs1 rs2 => Sys2Proof.Machine.execAdd rd rs1 rs2 s
  | .sub rd rs1 rs2 => Sys2Proof.Machine.execSub rd rs1 rs2 s
  | .mul rd rs1 rs2 => Sys2Proof.Machine.execMul rd rs1 rs2 s
  | .div rd rs1 rs2 => Sys2Proof.Machine.execDiv rd rs1 rs2 s
  | .mod rd rs1 rs2 => Sys2Proof.Machine.execMod rd rs1 rs2 s
  | .cmp rs1 rs2 => Sys2Proof.Machine.execCmp rs1 rs2 s
  | .jmp target => Sys2Proof.Machine.execJmp target s
  | .jeq target => Sys2Proof.Machine.execJeq target s
  | .jne target => Sys2Proof.Machine.execJne target s
  | .jgt target => Sys2Proof.Machine.execJgt target s
  | .jlt target => Sys2Proof.Machine.execJlt target s
  | .jge target => Sys2Proof.Machine.execJge target s
  | .push rs => Sys2Proof.Machine.execPush rs s
  | .pop rd => Sys2Proof.Machine.execPop rd s
  | .store rs addr => Sys2Proof.Machine.execStore rs addr s
  | .loadMem rd addr => Sys2Proof.Machine.execLoadMem rd addr s
  | .memcpy dest src len => Sys2Proof.Machine.execMemcpy dest src len s
  | .call target => Sys2Proof.Machine.execCall target s
  | .ret => Sys2Proof.Machine.execRet s

end Sys2Proof.Machine
end

