-- ==== Sys2Proof/Machine/Engine.lean ====
section
/-! DEFINITION. The run loop and fetch (spec/40_fetch_dispatch.md R132 to R143), and the unit's one step: an iteration of the
run loop while `engine_state = Running`, else the host's next command (R122). -/

namespace Sys2Proof.Machine

/-- The record at `pc`: from the instruction cache if it holds one for `pc`, else from program memory (R140). -/
def State.recordAt (s : State) : Option Record :=
  match s.icache.lookup s.pc.toNat with
  | some r => some r
  | none => s.prog[s.pc.toNat]?

/-- Fetch writes `last_insn` and `last_valid`, and BEGIN is emitted (R132, R140). -/
def State.fetched (s : State) (r : Record) : State := (s.setLastInsn r).emit (.beginInsn s.pc r s.view)

/-- Decode and dispatch; an illegal opcode fails (R142, R143). -/
def State.dispatch (s : State) (r : Record) : Out :=
  match decode s.params.opcodes r with
  | .ok i => exec i s
  | .error _ => raise .illegalOpcode s

/-- The run ends `Halted` with success when `pc` has run off the program (R134). -/
def State.runOff (s : State) : State := (s.setEngine .halted).respond .done

/-- One iteration of the run loop (R132). -/
def State.runStep (s : State) : Out :=
  if s.progLen ≤ s.pc.toNat then .next s.clearEvents.runOff
  else
    match s.recordAt with
    | some r => (s.clearEvents.fetched r).dispatch r
    | none => .next s.clearEvents.runOff

/-- One step of the unit. -/
def State.unitStep (s : State) : Out :=
  if s.engineState = .running then s.runStep else .next s.hostStep

end Sys2Proof.Machine
end

