-- ==== Sys2Proof/Machine/Step.lean ====
section
/-! DEFINITION. The step of the machine, and the host's question of where a step fetches. -/

namespace Sys2Proof.Machine

/-- One step: `State.unitStep` (Machine/Engine.lean). -/
def step (s : State) : Host.Outcome State Fault Refusal := s.unitStep

/-- The state in which the very next step fetches and runs the given record: a program of that one record has been loaded
and its run has begun, as LOAD_PROGRAM and RUN do it (R126, R128; log 9). -/
def State.withFetchWord (s : State) (nbits w : Nat) : State :=
  (s.loadRecords [tableRecord nbits w]).setEngine .running

end Sys2Proof.Machine
end

