-- ==== Sys2Proof/Safety.lean ====
section
/-! DEFINITION. The terms claims are made in: the invariant of the machine, what an instruction keeps, and the ways it ends
(spec/40_fetch_dispatch.md R132), each said by what the state before and the state after hold. -/

namespace Sys2Proof.Machine

/-! ### Opcodes -/

/-- An opcode byte that none of the 21 operations has (R94; C1). -/
def UnassignedOpcode (n : OpcodeNums) (b : Byte) : Prop := 18 < b.toNat ∧ b ≠ n.call ∧ b ≠ n.ret

/-! ### The invariant -/

/-- Every pair `(p, r)` of the cache has `p < PROG_LEN` and `r = prog[p]` (R158). -/
def State.CacheCoherent (s : State) : Prop := ∀ c ∈ s.icache, s.prog[c.1]? = some c.2

/-- The error record names the instruction `pc` and `last_insn` stand at, with a cause and its kind (R41, R263). -/
def State.ErrNamesPc (s : State) : Prop :=
  s.err.pc = s.pc ∧ s.err.opc = opcodeField s.lastInsn ∧ s.lastValid = true ∧
    ∃ c : Cause, s.err.kind = c.kind.code ∧ s.err.cause = c.code ∧ c.code.toNat ≤ 13

/-- What holds at reset and after every step. -/
structure State.Inv (s : State) : Prop where
  /-- R11. -/
  paramsLegal : s.params.Legal
  /-- R32, R34. -/
  stackBounded : s.sp ≤ s.params.stackCapacity
  /-- The memory's canonical form. -/
  memSorted : s.mem.wf
  /-- R35, R65: no byte outside the memory is ever written. -/
  memInside : ∀ c ∈ s.mem, c.1 < s.cfgMemSize
  /-- R36, R123. -/
  memSizeLegal : s.cfgMemSize ≤ Config.maxMemSize ∧ (s.live = true → 1 ≤ s.cfgMemSize)
  /-- R37, R38: a program is loaded in every engine state but `Idle`. -/
  progLoaded : s.progLen ≤ s.params.progCapacity ∧ (s.engineState = .idle ↔ s.progLen = 0)
  /-- R28: with RET's target check, `pc` never passes the end of the program. -/
  pcInside : s.params.retCheckTarget = true → s.pc.toNat ≤ s.progLen
  /-- R39: `Loaded` means `pc = 0`. -/
  pcAtLoad : s.engineState = .loaded → s.pc = 0
  /-- R46: one counter for each record. -/
  countsMatch : s.execCount.length = s.progLen
  /-- R47: one pair at most for an index. -/
  cacheSorted : s.icache.Pairwise fun c d => c.1 < d.1
  /-- R158. -/
  cacheCoherent : s.CacheCoherent
  /-- R47: at most `ICACHE_ENTRIES` pairs. -/
  cacheBounded : s.icache.length ≤ s.params.icacheEntries
  /-- R41: without a failure the error record is all zeros. -/
  errClear : s.err.valid = false → s.err = ErrRecord.clear
  /-- R41, R126, R136: a failure is recorded exactly in engine state `Failed`. -/
  errFailed : s.engineState = .failed ↔ s.err.valid = true
  /-- R263. -/
  errNames : s.err.valid = true → s.ErrNamesPc
  /-- R124: without an engine nothing is loaded or running. -/
  noEngine : s.live = false → s.engineState = .idle
  /-- R128: RUN's response comes when the run ends. -/
  runOpen : s.engineState = .running → s.response = none

/-! ### What an instruction keeps -/

/-- The elements no instruction writes. -/
structure KeepsUnit (s t : State) : Prop where
  params : t.params = s.params
  live : t.live = s.live
  memDraw : t.memDraw = s.memDraw
  cfgMemSize : t.cfgMemSize = s.cfgMemSize
  prog : t.prog = s.prog
  lastInsn : t.lastInsn = s.lastInsn
  lastValid : t.lastValid = s.lastValid
  pending : t.pending = s.pending

/-- Every general register is unchanged. -/
def KeepsRegs (s t : State) : Prop := ∀ r : Fin 16, t.readReg r = s.readReg r

/-- Every general register but `d` is unchanged. -/
def KeepsRegsBut (s t : State) (d : Fin 16) : Prop := ∀ r : Fin 16, r ≠ d → t.readReg r = s.readReg r

/-- Every byte of data memory is unchanged. -/
def KeepsMem (s t : State) : Prop := ∀ a : Nat, t.readByte a = s.readByte a

/-- Every byte of data memory outside the `n` bytes at `d` is unchanged. -/
def KeepsMemBut (s t : State) (d n : Nat) : Prop := ∀ a : Nat, a < d ∨ d + n ≤ a → t.readByte a = s.readByte a

/-- Registers, flag, stack and data memory are all unchanged. -/
structure KeepsData (s t : State) : Prop where
  regs : KeepsRegs s t
  cmpFlag : t.cmpFlag = s.cmpFlag
  stack : t.stack = s.stack
  mem : KeepsMem s t

/-- Register `d` holds the number `n`, and no other register, flag, stack entry or data byte is changed. -/
structure WritesReg (s t : State) (d : Fin 16) (n : Nat) : Prop where
  value : (t.readReg d).toNat = n
  regs : KeepsRegsBut s t d
  cmpFlag : t.cmpFlag = s.cmpFlag
  stack : t.stack = s.stack
  mem : KeepsMem s t

/-! ### How an instruction ends -/

/-- What a receiver sees at END: the index of the instruction, the effects already made (R160). -/
def endView (s t : State) : View := { pc := s.pc, regs := t.regs, stackDepth := t.sp, cmpFlag := t.cmpFlag }

/-- The counter of the dispatched index has gone up by one, saturating at `2^32 - 1`; the others have not (R154). -/
def Counted (s t : State) : Prop :=
  t.execCount.length = s.execCount.length ∧
    ∀ p, (t.count p).toNat =
      if p = s.pc.toNat ∧ p < s.execCount.length then min ((s.count p).toNat + 1) (2 ^ 32 - 1) else (s.count p).toNat

/-- The instruction ends with `Next(next)`, its memory events being `accesses` (R132): the run goes on at `next`, and the
cache changes only if `next` is a multiple of 1000 (R155). -/
structure Completed (s t : State) (next : Word) (accesses : List Event) : Prop where
  keeps : KeepsUnit s t
  pc : t.pc = next
  engineState : t.engineState = s.engineState
  err : t.err = s.err
  response : t.response = s.response
  counted : Counted s t
  cache : next.toNat % 1000 ≠ 0 → t.icache = s.icache ∧ t.cacheDraw = s.cacheDraw
  events : t.events = s.events ++ accesses ++ [.endInsn s.pc s.lastInsn .ok next (endView s t)]

/-- The instruction ends with `Stop` (R132, R135): the run is `Halted` with success and `pc` stays. -/
structure Stopped (s t : State) : Prop where
  keeps : KeepsUnit s t
  pc : t.pc = s.pc
  engineState : t.engineState = .halted
  err : t.err = s.err
  response : t.response = some .done
  counted : Counted s t
  cache : t.icache = s.icache ∧ t.cacheDraw = s.cacheDraw
  events : t.events = s.events ++ [.endInsn s.pc s.lastInsn .ok s.pc (endView s t)]

/-- The instruction ends with `Fail(kind, cause)` (R132, R136, R268): the run is `Failed`, the error record and the response
say why, `pc` stays, nothing is counted and the cache is unchanged. -/
structure FailedWith (s t : State) (c : Cause) : Prop where
  keeps : KeepsUnit s t
  pc : t.pc = s.pc
  engineState : t.engineState = .failed
  err : t.err = { valid := true, kind := c.kind.code, cause := c.code, pc := s.pc, opc := opcodeField s.lastInsn }
  response : t.response = some (.failure c.kind c)
  counted : t.execCount = s.execCount
  cache : t.icache = s.icache ∧ t.cacheDraw = s.cacheDraw
  events : t.events = s.events ++ [.endInsn s.pc s.lastInsn .fail s.pc (endView s t)]

/-- The instruction fails and has changed no register, flag, stack entry or data byte. -/
def Rejected (s t : State) (c : Cause) : Prop := FailedWith s t c ∧ KeepsData s t

/-! ### Rules of one shape -/

/-- R145 for an instruction with three register operands: the first index `>= 16`, in the order `dest_reg`, `operand1`,
`operand2`, ends it with its own cause. -/
def ChecksThreeRegs (mk : Byte → Word → Word → Instr) (s : State) (d : Byte) (a b : Word) : Prop :=
  (16 ≤ d.toNat → ∃ t, exec (mk d a b) s = .next t ∧ Rejected s t .badRegDest) ∧
  (d.toNat < 16 → 16 ≤ a.toNat → ∃ t, exec (mk d a b) s = .next t ∧ Rejected s t .badRegOp1) ∧
  (d.toNat < 16 → a.toNat < 16 → 16 ≤ b.toNat → ∃ t, exec (mk d a b) s = .next t ∧ Rejected s t .badRegOp2)

/-- The rule of a jump (R201 to R208): its target is checked first, taken or not. -/
def JumpsWhen (mk : Word → Instr) (taken : CmpFlag → Prop) (s : State) (target : Word) : Prop :=
  (s.progLen ≤ target.toNat → ∃ t, exec (mk target) s = .next t ∧ Rejected s t .badTarget) ∧
  (target.toNat < s.progLen → taken s.cmpFlag →
    ∃ t, exec (mk target) s = .next t ∧ Completed s t target [] ∧ KeepsData s t) ∧
  (target.toNat < s.progLen → ¬ taken s.cmpFlag →
    ∃ t, exec (mk target) s = .next t ∧ Completed s t (s.pc + 1) [] ∧ KeepsData s t)

/-- `CopyOk(d, s, n)` as R67 writes it, under each setting of `MEMCPY_BOUND`. -/
def CopyAllowed (s : State) (d src n : Nat) : Prop :=
  (s.params.memcpyBound = .strict →
    d < s.cfgMemSize ∧ src < s.cfgMemSize ∧ d + n < s.cfgMemSize ∧ src + n < s.cfgMemSize ∧ d + n < 2 ^ 32 ∧
      src + n < 2 ^ 32) ∧
  (s.params.memcpyBound = .range → d + n ≤ s.cfgMemSize ∧ src + n ≤ s.cfgMemSize)

/-- The move of R245 and R246 for an instruction whose operands are `d`, `src` and `n`. -/
def CopiesBlock (i : Instr) (s : State) (d src n : Nat) : Prop :=
  (n = 0 → ∃ t, exec i s = .next t ∧ Completed s t (s.pc + 1) [] ∧ KeepsData s t) ∧
  (n ≠ 0 → ¬ CopyAllowed s d src n → ∃ t, exec i s = .next t ∧ Rejected s t .copyBounds) ∧
  (n ≠ 0 → CopyAllowed s d src n →
    ∃ t, exec i s = .next t ∧ Completed s t (s.pc + 1) [] ∧ KeepsRegs s t ∧ t.cmpFlag = s.cmpFlag ∧ t.stack = s.stack ∧
      (∀ k, k < n → t.readByte (d + k) = s.readByte (src + k)) ∧ KeepsMemBut s t d n)

/-- The register an instruction writes when it writes one (R23). -/
def writtenReg : Instr → Option Byte
  | .load d _ => some d
  | .add d _ _ => some d
  | .sub d _ _ => some d
  | .mul d _ _ => some d
  | .div d _ _ => some d
  | .mod d _ _ => some d
  | .pop d => some d
  | .loadMem d _ => some d
  | .halt => none
  | .cmp _ _ => none
  | .jmp _ => none
  | .jeq _ => none
  | .jne _ => none
  | .jgt _ => none
  | .jlt _ => none
  | .jge _ => none
  | .push _ => none
  | .store _ _ => none
  | .memcpy _ _ _ => none
  | .call _ => none
  | .ret => none

/-- The one effect a failing instruction commits (R174): on overflow ADD and MUL leave `0xFFFFFFFF` in the register they name,
on underflow SUB leaves 0. -/
def Clamps (i : Instr) (c : Cause) (d : Byte) (v : Word) : Prop :=
  (c = .arithOverflow ∧ v = 0xFFFFFFFF ∧ ∃ a b, i = .add d a b ∨ i = .mul d a b) ∨
  (c = .arithUnderflow ∧ v = 0 ∧ ∃ a b, i = .sub d a b)

/-- The bytes an instruction stores to when it stores: their first address and their number (R69, R97, R247). -/
def storedRange (s : State) : Instr → Option (Nat × Nat)
  | .store _ addr => some (addr.toNat, 4)
  | .memcpy d a b =>
    match s.params.memcpyFields with
    | .positional => some (d.toNat, b.toNat)
    | .registerIndirect =>
      if h : d.toNat < 16 ∧ a.toNat < 16 ∧ b.toNat < 16 then
        some ((s.readReg ⟨d.toNat, h.1⟩).toNat, (s.readReg ⟨b.toNat, h.2.2⟩).toNat)
      else none
  | .halt => none
  | .load _ _ => none
  | .add _ _ _ => none
  | .sub _ _ _ => none
  | .mul _ _ _ => none
  | .div _ _ _ => none
  | .mod _ _ _ => none
  | .cmp _ _ => none
  | .jmp _ => none
  | .jeq _ => none
  | .jne _ => none
  | .jgt _ => none
  | .jlt _ => none
  | .jge _ => none
  | .push _ => none
  | .pop _ => none
  | .loadMem _ _ => none
  | .call _ => none
  | .ret => none

/-! ### What the cache hides -/

/-- A state without its counters, its cache and the cache's size: what no rule of another file reads (R159). -/
def State.hideCache (s : State) : State :=
  { s with params := { s.params with icacheEntries := 0 }, execCount := [], icache := [], cacheDraw := 0 }

/-- Two states alike but for their counters, caches and cache sizes. -/
def SameButCache (s t : State) : Prop := s.hideCache = t.hideCache

end Sys2Proof.Machine
end

