-- ==== Sys2Proof/Certificates/Slice0/Obligations.lean ====
section
/-! DEFINITION. The statements for the provers. A statement about an instruction says what `exec` answers for every operand;
its clauses exclude each other. The words `Completed`, `Stopped`, `FailedWith`, `Rejected`, `KeepsData`, `WritesReg`,
`ChecksThreeRegs`, `JumpsWhen` and `CopiesBlock` are Sys2Proof/Safety.lean's. What these words and the statements say of
`events` and `response`, the views of BEGIN and END among them, is in the model's form of R120 and R160 (log 10, DESIGN CHOICE;
log 15, DEDUCED). -/

open Sys2Proof Sys2Proof.Machine

/-! ### Encoding -/

/-- R90 to R95: decoding the record of an instruction gives it back, every operand at every value its field admits, and
whatever legal numbers CALL and RET have (which numbers are legal is the model's choice, log 24). -/
def Obligations.DecodeOfEncodeIsIdentity : Prop :=
  ∀ (n : OpcodeNums) (i : Instr), n.Legal → decode n (encode n i) = .ok i

/-- R90, R95: encoding what a record decodes to keeps its opcode and every field its opcode uses, and clears the others. -/
def Obligations.EncodeOfDecodeKeepsUsedFields : Prop :=
  ∀ (n : OpcodeNums) (w : Record) (i : Instr), decode n w = .ok i →
    encode n i =
      (if i.opcode.usesOperand2 then operand2Field w else 0) ++ (if i.opcode.usesOperand1 then operand1Field w else 0) ++
        (if i.opcode.usesDest then destField w else 0) ++ opcodeField w

/-- R98: a record decodes as any other with the same opcode that agrees with it on the fields the opcode uses. -/
def Obligations.IgnoredFieldsDoNotMatter : Prop :=
  ∀ (n : OpcodeNums) (w w' : Record), opcodeField w = opcodeField w' →
    (∀ o : Opcode, o.code n = opcodeField w →
      (o.usesDest = true → destField w = destField w') ∧ (o.usesOperand1 = true → operand1Field w = operand1Field w') ∧
        (o.usesOperand2 = true → operand2Field w = operand2Field w')) →
    decode n w = decode n w'

/-- R99, which the spec marks derived from R92 to R98: a record decodes to one of the 21 operations if its opcode byte is at
most 18, `OPC_CALL` or `OPC_RET`, and is an illegal opcode otherwise; no other field counts. With the default numbers the
illegal bytes are 21 to 255; what holds with other numbers, which C1 allows, is the model's choice (log 24, DESIGN CHOICE). -/
def Obligations.OpcodeByteAloneDecidesLegality : Prop :=
  (∀ (n : OpcodeNums) (w : Record),
    ((opcodeField w).toNat ≤ 18 ∨ opcodeField w = n.call ∨ opcodeField w = n.ret →
      ∃ i, decode n w = .ok i ∧ i.opcode.code n = opcodeField w) ∧
    (UnassignedOpcode n (opcodeField w) → decode n w = .error (.illegalOpcode (opcodeField w)))) ∧
  ∀ b : Byte, UnassignedOpcode .standard b ↔ 20 < b.toNat

/-- R91: a program of `n` records serializes to `10n` bytes, byte `k` of record `i` at offset `10i + k` being
`W[8k+7:8k]`, and reads back. -/
def Obligations.SerializedProgramReadsBack : Prop :=
  ∀ rs : List Record,
    (serializeProgram rs).length = 10 * rs.length ∧
    (∀ (i : Nat) (w : Record) (k : Nat), rs[i]? = some w → k < 10 →
      (serializeProgram rs)[10 * i + k]? = some (w.extractLsb' (8 * k) 8)) ∧
    deserialize (serializeProgram rs) = .ok rs

/-- R92, R93, R103: words written out from the spec's encodings, with the default numbers of CALL and RET, decode to the
instructions they stand for. -/
def Obligations.WordsOfTheSpecDecode : Prop :=
  decode .standard 0x00000002000000010302 = .ok (.add 3 1 2) ∧
  decode .standard 0x00000000000000040013 = .ok (.call 4) ∧
  decode .standard 0xDEADBEEF12345678FF14 = .ok .ret ∧
  decode .standard 0x00000000123456780101 = .ok (.load 1 0x12345678) ∧
  decode .standard 0x0000000300000002FF07 = .ok (.cmp 2 3) ∧
  decode .standard 0x0000000400000064C812 = .ok (.memcpy 200 100 4) ∧
  decode .standard 0x00000000000000000015 = .error (.illegalOpcode 21)

/-! ### Steps of the run loop -/

/-- R132, R140, R142, R144: when the record at `pc` decodes to an instruction, the step writes `last_insn` and `last_valid`,
emits BEGIN, and is `exec` of that instruction. -/
def Obligations.StepRunsTheDecodedInstruction : Prop :=
  ∀ (s : State) (w : Record) (i : Instr), s.engineState = .running → s.CacheCoherent → s.prog[s.pc.toNat]? = some w →
    decode s.params.opcodes w = .ok i →
    step s = exec i { s with
      lastInsn := w, lastValid := true,
      events := [.beginInsn s.pc w { pc := s.pc, regs := s.regs, stackDepth := s.sp, cmpFlag := s.cmpFlag }] }

/-- From R94 and R143, whose words are the opcodes 21..255: an opcode byte that no operation has fails with ILLEGAL_OPCODE and
changes nothing but `last_insn` and `last_valid`. With the default numbers of CALL and RET these bytes are 21..255; which they
are with other numbers, that C1 lets a unit have, is the model's choice (log 24, DESIGN CHOICE). -/
def Obligations.IllegalOpcodeFailsTheRun : Prop :=
  ∀ (s : State) (w : Record), s.engineState = .running → s.CacheCoherent → s.prog[s.pc.toNat]? = some w →
    UnassignedOpcode s.params.opcodes (opcodeField w) →
    ∃ t, step s = .next t ∧
      Rejected { s with
        lastInsn := w, lastValid := true,
        events := [.beginInsn s.pc w { pc := s.pc, regs := s.regs, stackDepth := s.sp, cmpFlag := s.cmpFlag }] }
        t .illegalOpcode

/-- R134: at `pc >= PROG_LEN` the run ends `Halted` with success, `pc` unchanged and nothing fetched. -/
def Obligations.RunningOffTheEndHalts : Prop :=
  ∀ s : State, s.engineState = .running → s.progLen ≤ s.pc.toNat →
    step s = .next { s with engineState := .halted, response := some .done, events := [] }

/-- R122: no host command is taken while the engine runs, and RUN is not answered before the run ends. -/
def Obligations.NoCommandIsTakenDuringARun : Prop :=
  ∀ s : State, s.engineState = .running →
    ∃ t, step s = .next t ∧ t.pending = s.pending ∧ (t.engineState = .running → t.response = s.response)

/-- The model's choice (log 5), resting on R277: with no command waiting and no run, the unit keeps its state. -/
def Obligations.WaitingUnitKeepsItsState : Prop :=
  ∀ s : State, s.engineState ≠ .running → s.pending = [] → step s = .next s

/-- From R260 and R270, by which no failure stops the unit: a step always answers a next state. That a failure is a next state
and never a fault is the model's reading (log 16, DEDUCED); that a unit with no run and no command has a step, which keeps its
state, is the model's choice (log 5, DESIGN CHOICE). -/
def Obligations.EveryStepHasANextState : Prop :=
  ∀ s : State, ∃ t, step s = .next t

/-- R132, R144: every instruction ends with `Next(t)`, `Stop` or one failure. -/
def Obligations.EveryInstructionEndsOneWay : Prop :=
  ∀ (i : Instr) (s : State), ∃ t, exec i s = .next t ∧
    ((∃ next accesses, Completed s t next accesses) ∨ (i = .halt ∧ Stopped s t) ∨ ∃ c, FailedWith s t c)

/-! ### HALT, LOAD, arithmetic, CMP -/

/-- R135, R170. -/
def Obligations.HaltStopsTheRun : Prop :=
  ∀ s : State, ∃ t, exec .halt s = .next t ∧ Stopped s t ∧ KeepsData s t

/-- R171: every 32-bit value is written exactly. -/
def Obligations.LoadFollowsItsRule : Prop :=
  ∀ (s : State) (d : Byte) (imm : Word),
    (16 ≤ d.toNat → ∃ t, exec (.load d imm) s = .next t ∧ Rejected s t .badRegDest) ∧
    ∀ hd : d.toNat < 16,
      ∃ t, exec (.load d imm) s = .next t ∧ Completed s t (s.pc + 1) [] ∧ WritesReg s t ⟨d.toNat, hd⟩ imm.toNat

/-- R174, R175, R181: the exact sum of the registers before the instruction, or the clamped write and IntegerOverflow. -/
def Obligations.AddFollowsItsRule : Prop :=
  ∀ (s : State) (d : Byte) (a b : Word),
    ChecksThreeRegs .add s d a b ∧
    ∀ (hd : d.toNat < 16) (ha : a.toNat < 16) (hb : b.toNat < 16),
      ((s.readReg ⟨a.toNat, ha⟩).toNat + (s.readReg ⟨b.toNat, hb⟩).toNat ≤ 0xFFFFFFFF →
        ∃ t, exec (.add d a b) s = .next t ∧ Completed s t (s.pc + 1) [] ∧
          WritesReg s t ⟨d.toNat, hd⟩ ((s.readReg ⟨a.toNat, ha⟩).toNat + (s.readReg ⟨b.toNat, hb⟩).toNat)) ∧
      (0xFFFFFFFF < (s.readReg ⟨a.toNat, ha⟩).toNat + (s.readReg ⟨b.toNat, hb⟩).toNat →
        ∃ t, exec (.add d a b) s = .next t ∧ FailedWith s t .arithOverflow ∧ WritesReg s t ⟨d.toNat, hd⟩ 0xFFFFFFFF)

/-- R174, R176, R181: the difference, or 0 and IntegerUnderflow. -/
def Obligations.SubFollowsItsRule : Prop :=
  ∀ (s : State) (d : Byte) (a b : Word),
    ChecksThreeRegs .sub s d a b ∧
    ∀ (hd : d.toNat < 16) (ha : a.toNat < 16) (hb : b.toNat < 16),
      ((s.readReg ⟨b.toNat, hb⟩).toNat ≤ (s.readReg ⟨a.toNat, ha⟩).toNat →
        ∃ t, exec (.sub d a b) s = .next t ∧ Completed s t (s.pc + 1) [] ∧
          WritesReg s t ⟨d.toNat, hd⟩ ((s.readReg ⟨a.toNat, ha⟩).toNat - (s.readReg ⟨b.toNat, hb⟩).toNat)) ∧
      ((s.readReg ⟨a.toNat, ha⟩).toNat < (s.readReg ⟨b.toNat, hb⟩).toNat →
        ∃ t, exec (.sub d a b) s = .next t ∧ FailedWith s t .arithUnderflow ∧ WritesReg s t ⟨d.toNat, hd⟩ 0)

/-- R174, R177, R181: the exact product, or the clamped write and IntegerOverflow. -/
def Obligations.MulFollowsItsRule : Prop :=
  ∀ (s : State) (d : Byte) (a b : Word),
    ChecksThreeRegs .mul s d a b ∧
    ∀ (hd : d.toNat < 16) (ha : a.toNat < 16) (hb : b.toNat < 16),
      ((s.readReg ⟨a.toNat, ha⟩).toNat * (s.readReg ⟨b.toNat, hb⟩).toNat ≤ 0xFFFFFFFF →
        ∃ t, exec (.mul d a b) s = .next t ∧ Completed s t (s.pc + 1) [] ∧
          WritesReg s t ⟨d.toNat, hd⟩ ((s.readReg ⟨a.toNat, ha⟩).toNat * (s.readReg ⟨b.toNat, hb⟩).toNat)) ∧
      (0xFFFFFFFF < (s.readReg ⟨a.toNat, ha⟩).toNat * (s.readReg ⟨b.toNat, hb⟩).toNat →
        ∃ t, exec (.mul d a b) s = .next t ∧ FailedWith s t .arithOverflow ∧ WritesReg s t ⟨d.toNat, hd⟩ 0xFFFFFFFF)

/-- R178, R179, R181: the quotient rounded toward zero, or DivisionByZero with no write. -/
def Obligations.DivFollowsItsRule : Prop :=
  ∀ (s : State) (d : Byte) (a b : Word),
    ChecksThreeRegs .div s d a b ∧
    ∀ (hd : d.toNat < 16) (ha : a.toNat < 16) (hb : b.toNat < 16),
      ((s.readReg ⟨b.toNat, hb⟩).toNat = 0 → ∃ t, exec (.div d a b) s = .next t ∧ Rejected s t .divZero) ∧
      ((s.readReg ⟨b.toNat, hb⟩).toNat ≠ 0 →
        ∃ t, exec (.div d a b) s = .next t ∧ Completed s t (s.pc + 1) [] ∧
          WritesReg s t ⟨d.toNat, hd⟩ ((s.readReg ⟨a.toNat, ha⟩).toNat / (s.readReg ⟨b.toNat, hb⟩).toNat))

/-- R178, R180, R181: the remainder, below the divisor, or DivisionByZero with no write. -/
def Obligations.ModFollowsItsRule : Prop :=
  ∀ (s : State) (d : Byte) (a b : Word),
    ChecksThreeRegs .mod s d a b ∧
    ∀ (hd : d.toNat < 16) (ha : a.toNat < 16) (hb : b.toNat < 16),
      ((s.readReg ⟨b.toNat, hb⟩).toNat = 0 → ∃ t, exec (.mod d a b) s = .next t ∧ Rejected s t .divZero) ∧
      ((s.readReg ⟨b.toNat, hb⟩).toNat ≠ 0 →
        ∃ t, exec (.mod d a b) s = .next t ∧ Completed s t (s.pc + 1) [] ∧
          WritesReg s t ⟨d.toNat, hd⟩ ((s.readReg ⟨a.toNat, ha⟩).toNat % (s.readReg ⟨b.toNat, hb⟩).toNat) ∧
          (t.readReg ⟨d.toNat, hd⟩).toNat < (s.readReg ⟨b.toNat, hb⟩).toNat)

/-- R182: the sign of the difference of the unsigned values, and nothing else written. -/
def Obligations.CmpFollowsItsRule : Prop :=
  ∀ (s : State) (a b : Word),
    (16 ≤ a.toNat → ∃ t, exec (.cmp a b) s = .next t ∧ Rejected s t .badRegOp1) ∧
    (a.toNat < 16 → 16 ≤ b.toNat → ∃ t, exec (.cmp a b) s = .next t ∧ Rejected s t .badRegOp2) ∧
    ∀ (ha : a.toNat < 16) (hb : b.toNat < 16),
      ∃ t, exec (.cmp a b) s = .next t ∧ Completed s t (s.pc + 1) [] ∧ KeepsRegs s t ∧ t.stack = s.stack ∧ KeepsMem s t ∧
        (t.cmpFlag = .less ↔ (s.readReg ⟨a.toNat, ha⟩).toNat < (s.readReg ⟨b.toNat, hb⟩).toNat) ∧
        (t.cmpFlag = .equal ↔ (s.readReg ⟨a.toNat, ha⟩).toNat = (s.readReg ⟨b.toNat, hb⟩).toNat) ∧
        (t.cmpFlag = .greater ↔ (s.readReg ⟨b.toNat, hb⟩).toNat < (s.readReg ⟨a.toNat, ha⟩).toNat)

/-! ### Jumps -/

/-- R203. -/
def Obligations.JmpFollowsItsRule : Prop :=
  ∀ (s : State) (target : Word),
    (s.progLen ≤ target.toNat → ∃ t, exec (.jmp target) s = .next t ∧ Rejected s t .badTarget) ∧
    (target.toNat < s.progLen → ∃ t, exec (.jmp target) s = .next t ∧ Completed s t target [] ∧ KeepsData s t)

/-- R201, R204 to R208: the target is checked first, taken or not. The conditions are those of R202, which the spec marks as
general knowledge and not in its source (D12): the model's are PRESUMED (log 19). -/
def Obligations.ConditionalJumpsFollowTheirRules : Prop :=
  ∀ (s : State) (target : Word),
    JumpsWhen .jeq (fun f => f = .equal) s target ∧
    JumpsWhen .jne (fun f => f ≠ .equal) s target ∧
    JumpsWhen .jgt (fun f => f = .greater) s target ∧
    JumpsWhen .jlt (fun f => f = .less) s target ∧
    JumpsWhen .jge (fun f => f = .equal ∨ f = .greater) s target

/-- R202's last column, which the spec marks as its own reading (D12, D24; log 19, PRESUMED): after `CMP Rs1, Rs2` each jump
is taken exactly when its relation holds of the unsigned register values. -/
def Obligations.JumpAfterCmpComparesUnsigned : Prop :=
  ∀ (s : State) (a b target : Word) (ha : a.toNat < 16) (hb : b.toNat < 16), target.toNat < s.progLen →
    ∃ t, exec (.cmp a b) s = .next t ∧
      (∃ u, exec (.jmp target) t = .next u ∧ u.pc = target) ∧
      (∃ u, exec (.jeq target) t = .next u ∧ u.pc =
        if (s.readReg ⟨a.toNat, ha⟩).toNat = (s.readReg ⟨b.toNat, hb⟩).toNat then target else s.pc + 1 + 1) ∧
      (∃ u, exec (.jne target) t = .next u ∧ u.pc =
        if (s.readReg ⟨a.toNat, ha⟩).toNat ≠ (s.readReg ⟨b.toNat, hb⟩).toNat then target else s.pc + 1 + 1) ∧
      (∃ u, exec (.jgt target) t = .next u ∧ u.pc =
        if (s.readReg ⟨b.toNat, hb⟩).toNat < (s.readReg ⟨a.toNat, ha⟩).toNat then target else s.pc + 1 + 1) ∧
      (∃ u, exec (.jlt target) t = .next u ∧ u.pc =
        if (s.readReg ⟨a.toNat, ha⟩).toNat < (s.readReg ⟨b.toNat, hb⟩).toNat then target else s.pc + 1 + 1) ∧
      (∃ u, exec (.jge target) t = .next u ∧ u.pc =
        if (s.readReg ⟨b.toNat, hb⟩).toNat ≤ (s.readReg ⟨a.toNat, ha⟩).toNat then target else s.pc + 1 + 1)

/-! ### Stack, CALL, RET -/

/-- R220, R221, R222: the register's value goes on top; `stack[sp] <- v; sp <- sp + 1`. -/
def Obligations.PushFollowsItsRule : Prop :=
  ∀ (s : State) (d : Byte),
    (16 ≤ d.toNat → ∃ t, exec (.push d) s = .next t ∧ Rejected s t .badRegDest) ∧
    (d.toNat < 16 → s.sp = s.params.stackCapacity → ∃ t, exec (.push d) s = .next t ∧ Rejected s t .stackFull) ∧
    ∀ hd : d.toNat < 16, s.sp ≠ s.params.stackCapacity →
      ∃ t, exec (.push d) s = .next t ∧ Completed s t (s.pc + 1) [] ∧ t.stack = s.readReg ⟨d.toNat, hd⟩ :: s.stack ∧
        t.sp = s.sp + 1 ∧ t.stackEntry s.sp = some (s.readReg ⟨d.toNat, hd⟩) ∧
        (∀ k, k < s.sp → t.stackEntry k = s.stackEntry k) ∧ KeepsRegs s t ∧ t.cmpFlag = s.cmpFlag ∧ KeepsMem s t

/-- R220, R221, R223. -/
def Obligations.PopFollowsItsRule : Prop :=
  ∀ (s : State) (d : Byte),
    (16 ≤ d.toNat → ∃ t, exec (.pop d) s = .next t ∧ Rejected s t .badRegDest) ∧
    (d.toNat < 16 → s.sp = 0 → ∃ t, exec (.pop d) s = .next t ∧ Rejected s t .stackEmpty) ∧
    ∀ (hd : d.toNat < 16) (v : Word) (rest : List Word), s.stack = v :: rest →
      ∃ t, exec (.pop d) s = .next t ∧ Completed s t (s.pc + 1) [] ∧ t.readReg ⟨d.toNat, hd⟩ = v ∧
        s.stackEntry (s.sp - 1) = some v ∧ t.stack = rest ∧ t.sp = s.sp - 1 ∧ KeepsRegsBut s t ⟨d.toNat, hd⟩ ∧
        t.cmpFlag = s.cmpFlag ∧ KeepsMem s t

/-- R225, R226: the target is checked before the capacity; `pc + 1` is pushed. -/
def Obligations.CallFollowsItsRule : Prop :=
  ∀ (s : State) (target : Word),
    (s.progLen ≤ target.toNat → ∃ t, exec (.call target) s = .next t ∧ Rejected s t .badTarget) ∧
    (target.toNat < s.progLen → s.sp = s.params.stackCapacity →
      ∃ t, exec (.call target) s = .next t ∧ Rejected s t .stackFull) ∧
    (target.toNat < s.progLen → s.sp ≠ s.params.stackCapacity →
      ∃ t, exec (.call target) s = .next t ∧ Completed s t target [] ∧ t.stack = (s.pc + 1) :: s.stack ∧ KeepsRegs s t ∧
        t.cmpFlag = s.cmpFlag ∧ KeepsMem s t)

/-- R227, R228: the run goes on at the popped value itself, which is checked first if `RET_CHECK_TARGET`. -/
def Obligations.RetFollowsItsRule : Prop :=
  ∀ s : State,
    (s.sp = 0 → ∃ t, exec .ret s = .next t ∧ Rejected s t .stackEmpty) ∧
    ∀ (v : Word) (rest : List Word), s.stack = v :: rest →
      (s.params.retCheckTarget = true → s.progLen ≤ v.toNat → ∃ t, exec .ret s = .next t ∧ Rejected s t .badReturn) ∧
      (s.params.retCheckTarget = false ∨ v.toNat < s.progLen →
        ∃ t, exec .ret s = .next t ∧ Completed s t v [] ∧ t.stack = rest ∧ KeepsRegs s t ∧ t.cmpFlag = s.cmpFlag ∧
          KeepsMem s t)

/-- R222, R223, R224: on the shared stack a POP takes back what a PUSH put there. -/
def Obligations.PopTakesBackWhatPushPut : Prop :=
  ∀ (s : State) (d e : Byte) (hd : d.toNat < 16) (he : e.toNat < 16), s.sp ≠ s.params.stackCapacity →
    ∃ t u, exec (.push d) s = .next t ∧ exec (.pop e) t = .next u ∧ u.readReg ⟨e.toNat, he⟩ = s.readReg ⟨d.toNat, hd⟩ ∧
      KeepsRegsBut s u ⟨e.toNat, he⟩ ∧ u.stack = s.stack ∧ u.pc = s.pc + 1 + 1

/-- From R226 and R228, with R225, which the spec marks derived: RET after CALL goes on after the CALL, with the stack as it
was; for the CALL that is the last instruction RET fails under the default. -/
def Obligations.RetReturnsBehindTheCall : Prop :=
  ∀ (s : State) (target : Word), target.toNat < s.progLen → s.sp ≠ s.params.stackCapacity →
    ∃ t, exec (.call target) s = .next t ∧
      (s.params.retCheckTarget = false ∨ (s.pc + 1).toNat < s.progLen →
        ∃ u, exec .ret t = .next u ∧ u.pc = s.pc + 1 ∧ u.stack = s.stack) ∧
      (s.params.retCheckTarget = true → (s.pc + 1).toNat = s.progLen →
        ∃ u, exec .ret t = .next u ∧ Rejected t u .badReturn)

/-! ### Data memory -/

/-- R62, R66, R241: four bytes at `addr` and no other byte; little-endian under the default `DATA_ENDIAN = LITTLE`, the order
R62 fixes. What the other order does is BigEndianWordsAreReversed. -/
def Obligations.StoreFollowsItsRule : Prop :=
  ∀ (s : State) (d : Byte) (addr : Word),
    (16 ≤ d.toNat → ∃ t, exec (.store d addr) s = .next t ∧ Rejected s t .badRegDest) ∧
    (d.toNat < 16 → s.cfgMemSize < addr.toNat + 4 → ∃ t, exec (.store d addr) s = .next t ∧ Rejected s t .memBounds) ∧
    ∀ hd : d.toNat < 16, addr.toNat + 4 ≤ s.cfgMemSize →
      ∃ t, exec (.store d addr) s = .next t ∧
        Completed s t (s.pc + 1) [.memAccess addr true 4 (s.readReg ⟨d.toNat, hd⟩)] ∧
        (s.params.dataEndian = .little →
          t.readByte addr.toNat = (s.readReg ⟨d.toNat, hd⟩).extractLsb' 0 8 ∧
          t.readByte (addr.toNat + 1) = (s.readReg ⟨d.toNat, hd⟩).extractLsb' 8 8 ∧
          t.readByte (addr.toNat + 2) = (s.readReg ⟨d.toNat, hd⟩).extractLsb' 16 8 ∧
          t.readByte (addr.toNat + 3) = (s.readReg ⟨d.toNat, hd⟩).extractLsb' 24 8) ∧
        KeepsMemBut s t addr.toNat 4 ∧ KeepsRegs s t ∧ t.cmpFlag = s.cmpFlag ∧ t.stack = s.stack

/-- R62, R66, R242: the four bytes at `addr`; little-endian under the default `DATA_ENDIAN = LITTLE`, the order R62 fixes. What
the other order does is BigEndianWordsAreReversed. -/
def Obligations.LoadMemFollowsItsRule : Prop :=
  ∀ (s : State) (d : Byte) (addr : Word),
    (16 ≤ d.toNat → ∃ t, exec (.loadMem d addr) s = .next t ∧ Rejected s t .badRegDest) ∧
    (d.toNat < 16 → s.cfgMemSize < addr.toNat + 4 → ∃ t, exec (.loadMem d addr) s = .next t ∧ Rejected s t .memBounds) ∧
    ∀ hd : d.toNat < 16, addr.toNat + 4 ≤ s.cfgMemSize →
      ∃ (v : Word) (t : State), exec (.loadMem d addr) s = .next t ∧
        Completed s t (s.pc + 1) [.memAccess addr false 4 v] ∧ WritesReg s t ⟨d.toNat, hd⟩ v.toNat ∧
        (s.params.dataEndian = .little →
          v = s.readByte (addr.toNat + 3) ++ s.readByte (addr.toNat + 2) ++ s.readByte (addr.toNat + 1) ++
            s.readByte addr.toNat ∧
          v.toNat = (s.readByte addr.toNat).toNat + 2 ^ 8 * (s.readByte (addr.toNat + 1)).toNat +
            2 ^ 16 * (s.readByte (addr.toNat + 2)).toNat + 2 ^ 24 * (s.readByte (addr.toNat + 3)).toNat)

/-- R243, which the spec marks derived from R241, R242 and R62: what STORE puts at an address LOAD_MEM takes back. -/
def Obligations.StoreThenLoadGivesTheValueBack : Prop :=
  ∀ (s : State) (d e : Byte) (addr : Word) (hd : d.toNat < 16) (he : e.toNat < 16), addr.toNat + 4 ≤ s.cfgMemSize →
    ∃ t u, exec (.store d addr) s = .next t ∧ exec (.loadMem e addr) t = .next u ∧
      u.readReg ⟨e.toNat, he⟩ = s.readReg ⟨d.toNat, hd⟩

/-- From R245 with `MEMCPY_FIELDS = POSITIONAL`, with R67's check and R244's zero length. The move is said as R246, which the
spec marks derived from R245, says it: whatever the overlap, the destination gets the bytes the source held before. -/
def Obligations.MemcpyMovesItsBlock : Prop :=
  ∀ (s : State) (d : Byte) (a b : Word), s.params.memcpyFields = .positional →
    CopiesBlock (.memcpy d a b) s d.toNat a.toNat b.toNat

/-- From R247: with `MEMCPY_FIELDS = REGISTER_INDIRECT` the three fields are register indices, checked first; then R245 runs
with R67's check and R244's zero length. The move is said as R246, which the spec marks derived from R245, says it. -/
def Obligations.IndirectMemcpyMovesItsBlock : Prop :=
  ∀ (s : State) (d : Byte) (a b : Word), s.params.memcpyFields = .registerIndirect →
    ChecksThreeRegs .memcpy s d a b ∧
    ∀ (hd : d.toNat < 16) (ha : a.toNat < 16) (hb : b.toNat < 16),
      CopiesBlock (.memcpy d a b) s (s.readReg ⟨d.toNat, hd⟩).toNat (s.readReg ⟨a.toNat, ha⟩).toNat
        (s.readReg ⟨b.toNat, hb⟩).toNat

/-! ### Rules over all instructions -/

/-- R24, R145: an instruction with a register index `>= 16` in any position it uses fails and changes nothing. -/
def Obligations.BadRegisterIndexAlwaysFails : Prop :=
  ∀ (s : State) (i : Instr), i.wellFormed s.params.memcpyFields = false →
    ∃ t c, (c = .badRegDest ∨ c = .badRegOp1 ∨ c = .badRegOp2) ∧ exec i s = .next t ∧ Rejected s t c

/-- R30: no instruction but CMP writes `cmp_flag`. -/
def Obligations.OnlyCmpWritesTheFlag : Prop :=
  ∀ (i : Instr) (s t : State), exec i s = .next t → (∀ a b, i ≠ .cmp a b) → t.cmpFlag = s.cmpFlag

/-- R23: an instruction writes no register but the one its `dest_reg` names, and only LOAD, ADD, SUB, MUL, DIV, MOD, POP and
LOAD_MEM write one. -/
def Obligations.OnlyTheNamedRegisterIsWritten : Prop :=
  ∀ (i : Instr) (s t : State) (r : Fin 16), exec i s = .next t → (∀ d, writtenReg i = some d → d.toNat ≠ r.val) →
    t.readReg r = s.readReg r

/-- R31, R32: entries are put on the stack by PUSH and CALL and taken off by POP and RET, one at a time, and no other
instruction changes it. -/
def Obligations.StackChangesByOneEntry : Prop :=
  ∀ (i : Instr) (s t : State), exec i s = .next t →
    t.stack = s.stack ∨
    ((i.opcode = .push ∨ i.opcode = .call) ∧ ∃ v, t.stack = v :: s.stack) ∨
    ((i.opcode = .pop ∨ i.opcode = .ret) ∧ ∃ v, s.stack = v :: t.stack)

/-- R35, R69: no instruction changes a byte outside the range it stores to, and only STORE and MEMCPY have one. -/
def Obligations.OnlyTheStoredRangeIsWritten : Prop :=
  ∀ (i : Instr) (s t : State) (a : Nat), exec i s = .next t →
    (∀ d n, storedRange s i = some (d, n) → a < d ∨ d + n ≤ a) → t.readByte a = s.readByte a

/-- R36, R37, R77: a step of a run writes no program memory and keeps the memory size, the parameters and the engine. -/
def Obligations.ARunNeverWritesTheProgram : Prop :=
  ∀ s t : State, s.engineState = .running → step s = .next t →
    t.prog = s.prog ∧ t.cfgMemSize = s.cfgMemSize ∧ t.params = s.params ∧ t.live = s.live

/-- R136: a failure ends the run `Failed` at the failing instruction and commits nothing but R174's clamp: with any cause but
the two arithmetic ones every register is as before, on overflow the destination of an ADD or MUL holds `0xFFFFFFFF`, on
underflow that of a SUB holds 0, and no other register has changed. -/
def Obligations.FailureCommitsOnlyTheClamp : Prop :=
  ∀ s t : State, s.engineState = .running → s.CacheCoherent → step s = .next t → t.engineState = .failed →
    ∃ (w : Record) (c : Cause), s.prog[s.pc.toNat]? = some w ∧
      FailedWith { s with
        lastInsn := w, lastValid := true,
        events := [.beginInsn s.pc w { pc := s.pc, regs := s.regs, stackDepth := s.sp, cmpFlag := s.cmpFlag }] } t c ∧
      t.cmpFlag = s.cmpFlag ∧ t.stack = s.stack ∧ KeepsMem s t ∧
      (c ≠ .arithOverflow → c ≠ .arithUnderflow → KeepsRegs s t) ∧
      (c = .arithOverflow → ∃ (d : Byte) (a b : Word) (hd : d.toNat < 16),
        (decode s.params.opcodes w = .ok (.add d a b) ∨ decode s.params.opcodes w = .ok (.mul d a b)) ∧
          (t.readReg ⟨d.toNat, hd⟩).toNat = 0xFFFFFFFF ∧ KeepsRegsBut s t ⟨d.toNat, hd⟩) ∧
      (c = .arithUnderflow → ∃ (d : Byte) (a b : Word) (hd : d.toNat < 16),
        decode s.params.opcodes w = .ok (.sub d a b) ∧ (t.readReg ⟨d.toNat, hd⟩).toNat = 0 ∧
          KeepsRegsBut s t ⟨d.toNat, hd⟩)

/-- R154: a dispatch that succeeds, HALT included, counts once at its own index, saturating; one that fails does not count. -/
def Obligations.SuccessCountsExactlyOnce : Prop :=
  ∀ s : State, s.engineState = .running → s.pc.toNat < s.progLen → s.execCount.length = s.progLen → s.CacheCoherent →
    ∃ t, step s = .next t ∧
      (t.engineState = .failed → t.execCount = s.execCount) ∧
      (t.engineState ≠ .failed →
        (t.count s.pc.toNat).toNat = min ((s.count s.pc.toNat).toNat + 1) (2 ^ 32 - 1) ∧
        ∀ p, p ≠ s.pc.toNat → t.count p = s.count p)

/-! ### The instruction cache -/

/-- R157, which the spec marks derived from R141: maintenance changes only `icache` (and the model's own count of free
choices). -/
def Obligations.MaintenanceChangesOnlyTheCache : Prop :=
  ∀ s : State, { s.maintain with icache := s.icache, cacheDraw := s.cacheDraw } = s

/-- R155, R156: after an instruction that goes on at a multiple of 1000 the cache holds only pairs it held and pairs
`(p, prog[p])` counted more than 1000 times, at most `ICACHE_ENTRIES`. The last clause, that where all of those fit the old
pairs are all kept and every candidate is inserted, is the model's choice (log 4, DESIGN CHOICE): R156 leaves the replacement
of a pair free. -/
def Obligations.MaintenanceInsertsHotPairs : Prop :=
  ∀ (i : Instr) (s t : State), s.engineState = .running → exec i s = .next t → t.engineState = .running →
    t.pc.toNat % 1000 = 0 → (s.icache.Pairwise fun c d => c.1 < d.1) →
    s.icache.length ≤ s.params.icacheEntries →
    (∀ e ∈ t.icache, e ∈ s.icache ∨ (s.prog[e.1]? = some e.2 ∧ 1000 < (t.count e.1).toNat)) ∧
    t.icache.length ≤ s.params.icacheEntries ∧
    ((∀ ps : List Nat, ps.Nodup →
        (∀ p ∈ ps, p < s.progLen ∧ 1000 < (t.count p).toNat ∧ ∀ e ∈ s.icache, e.1 ≠ p) →
        s.icache.length + ps.length ≤ s.params.icacheEntries) →
      ∀ e, e ∈ t.icache ↔
        e ∈ s.icache ∨
          (s.prog[e.1]? = some e.2 ∧ 1000 < (t.count e.1).toNat ∧ ∀ c ∈ s.icache, c.1 ≠ e.1))

/-- R158: every pair of the cache stays a pair of the program. -/
def Obligations.EveryStepKeepsTheCacheCoherent : Prop :=
  ∀ s t : State, s.CacheCoherent → step s = .next t → t.CacheCoherent

/-- R141 and R159, which the spec marks derived from R140, R157 and R158: two units alike but for their counters, caches and
cache sizes stay alike: the cache is not observable. -/
def Obligations.TheCacheIsNotObservable : Prop :=
  ∀ s s' : State, SameButCache s s' → s.CacheCoherent → s'.CacheCoherent →
    ∃ t t', step s = .next t ∧ step s' = .next t' ∧ SameButCache t t'

/-! ### The invariant -/

/-- The invariant holds at reset. That `State.reset` is the unit after INIT with size 65536 (log 6) and with `Params.asBuilt`
(log 1) is the model's choice (both DESIGN CHOICE); `Inv` has the model's forms that EveryStepKeepsTheInvariant names. -/
def Obligations.ResetMeetsTheInvariant : Prop :=
  State.reset.Inv

/-- The invariant is kept by every step: of a run, of a host command, and of a unit that waits. Its clauses formalise the rules
cited, but these rest on the model's own forms: the canonical form of memory (log 2), the engine state of a torn-down unit
(log 7), no response during a run (log 10), the legal opcode numbers (log 24), all DESIGN CHOICE, and the sorted cache (log 12)
and `sp` and `PROG_LEN` as lengths (log 11), both DEDUCED. -/
def Obligations.EveryStepKeepsTheInvariant : Prop :=
  ∀ s t : State, s.Inv → step s = .next t → t.Inv

/-! ### Reset and the host commands

The queue of waiting commands, the latched response and the events of the last step are the model's own form of R120, R128
and R160 (log 10). -/

/-- R290, R11: what the reset state holds. That reset is INIT with the default size is the model's choice (log 6); memory and
`last_insn` are draws (logs 2, 3). -/
def Obligations.ResetStateHoldsTheResetValues : Prop :=
  (∀ r, State.reset.readReg r = 0) ∧ State.reset.pc = 0 ∧ State.reset.cmpFlag = .equal ∧ State.reset.sp = 0 ∧
    State.reset.cfgMemSize = 65536 ∧ State.reset.progLen = 0 ∧ State.reset.engineState = .idle ∧
    State.reset.err = { valid := false, kind := 0, cause := 0, pc := 0, opc := 0 } ∧ State.reset.lastValid = false ∧
    (∀ p, State.reset.count p = 0) ∧ State.reset.icache = [] ∧
    (∀ a, State.reset.readByte a = Config.memInit State.reset.memDraw a) ∧
    State.reset.lastInsn = Config.lastInsnInit State.reset.memDraw

/-- R290, with R123's check of `memory_size`: an accepted INIT resets every element to its value, on an existing engine too. -/
def Obligations.InitResetsEveryElement : Prop :=
  ∀ (s : State) (n : Nat) (cs : List HostCmd), s.engineState ≠ .running → s.pending = .init n :: cs →
    (n = 0 ∨ 2 ^ 32 < n →
      step s = .next { s with pending := cs, events := [], response := some (.failure .invalidConfiguration .badConfig) }) ∧
    (1 ≤ n → n ≤ 2 ^ 32 →
      ∃ t, step s = .next t ∧ t.live = true ∧ t.params = s.params ∧ (∀ r, t.readReg r = 0) ∧ t.pc = 0 ∧
        t.cmpFlag = .equal ∧ t.sp = 0 ∧ t.cfgMemSize = n ∧ t.progLen = 0 ∧ t.engineState = .idle ∧
        t.err = { valid := false, kind := 0, cause := 0, pc := 0, opc := 0 } ∧ t.lastValid = false ∧
        (∀ p, t.count p = 0) ∧ t.icache = [] ∧ t.pending = cs ∧ t.response = some .done)

/-- The model's form of R290's and R292's draws (logs 2, 3): every accepted INIT makes memory and `last_insn` new free values. -/
def Obligations.InitDrawsMemoryAnew : Prop :=
  ∀ (s : State) (n : Nat) (cs : List HostCmd), s.engineState ≠ .running → s.pending = .init n :: cs → 1 ≤ n → n ≤ 2 ^ 32 →
    ∃ t, step s = .next t ∧ t.memDraw = s.memDraw + 1 ∧ (∀ a, t.readByte a = Config.memInit (s.memDraw + 1) a) ∧
      t.lastInsn = Config.lastInsnInit (s.memDraw + 1)

/-- R125, R126: LOAD_PROGRAM replaces the program, resets `pc`, the error record, the counters and the cache, and keeps
everything else. -/
def Obligations.LoadProgramFollowsItsRule : Prop :=
  ∀ (s : State) (rs : List Record) (cs : List HostCmd), s.live = true → s.engineState ≠ .running →
    s.pending = .loadProgram rs :: cs →
    (rs = [] →
      step s = .next { s with pending := cs, events := [], response := some (.failure .invalidInstruction .emptyProgram) }) ∧
    (s.params.progCapacity < rs.length → rs ≠ [] →
      step s = .next { s with pending := cs, events := [], response := some (.failure .resourceExhausted .progTooLong) }) ∧
    (1 ≤ rs.length → rs.length ≤ s.params.progCapacity →
      step s = .next { s with
        pending := cs, events := [], response := some .done, prog := rs, pc := 0, engineState := .loaded,
        err := { valid := false, kind := 0, cause := 0, pc := 0, opc := 0 }, execCount := List.replicate rs.length 0,
        icache := [] })

/-- R127, and R128's start: RUN starts a run from `Loaded` and is rejected in `Idle`, `Halted` and `Failed`. -/
def Obligations.RunStartsOnlyFromLoaded : Prop :=
  ∀ (s : State) (cs : List HostCmd), s.live = true → s.pending = .run :: cs →
    (s.engineState = .loaded →
      step s = .next { s with pending := cs, events := [], response := none, engineState := .running }) ∧
    (s.engineState = .idle ∨ s.engineState = .halted ∨ s.engineState = .failed →
      step s = .next { s with pending := cs, events := [], response := some (.failure .invalidInstruction .notLoaded) })

/-- R130: GET_REGISTER returns `x[index]`, or fails, and changes no state. -/
def Obligations.GetRegisterReadsOneRegister : Prop :=
  ∀ (s : State) (i : Nat) (cs : List HostCmd), s.live = true → s.engineState ≠ .running →
    s.pending = .getRegister i :: cs →
    (∀ h : i < 16,
      step s = .next { s with pending := cs, events := [], response := some (.register (s.readReg ⟨i, h⟩)) }) ∧
    (16 ≤ i →
      step s = .next { s with pending := cs, events := [], response := some (.failure .invalidInstruction .badRegIndex) })

/-- R131: what SNAPSHOT returns; it changes no state. -/
def Obligations.SnapshotReadsTheState : Prop :=
  ∀ (s : State) (cs : List HostCmd), s.live = true → s.engineState ≠ .running → s.pending = .snapshot :: cs →
    step s = .next { s with
      pending := cs, events := [],
      response := some (.snapshot
        { pc := s.pc, cmpFlag := s.cmpFlag, stackDepth := s.stack.length, registers := s.regs,
          lastInstruction := if s.lastValid then some s.lastInsn else none } s.statusRegs) }

/-- R44: the fields of STATUS and the registers S1 to S6. That S2 is `sp` modulo `2^32` is the model's choice for a stack deeper
than 32 bits can say (log 22, DESIGN CHOICE); up to there it is R44's zero-extended `sp`. -/
def Obligations.StatusRegistersHaveTheirLayout : Prop :=
  ∀ s : State,
    (s.statusRegs.status.extractLsb' 0 3).toNat =
      (match s.engineState with
        | .idle => 0
        | .loaded => 1
        | .running => 2
        | .halted => 3
        | .failed => 4) ∧
    s.statusRegs.status.getLsbD 3 = s.err.valid ∧ s.statusRegs.status.extractLsb' 4 4 = s.err.kind ∧
    s.statusRegs.status.extractLsb' 8 5 = s.err.cause ∧
    (s.statusRegs.status.extractLsb' 13 2 =
      match s.cmpFlag with
        | .equal => 0b00
        | .greater => 0b01
        | .less => 0b11) ∧
    s.statusRegs.status.getLsbD 15 = s.lastValid ∧ s.statusRegs.status.extractLsb' 16 8 = s.err.opc ∧
    s.statusRegs.status.extractLsb' 24 8 = 0 ∧ s.statusRegs.pc = s.pc ∧
    s.statusRegs.sp.toNat = s.stack.length % 2 ^ 32 ∧ s.statusRegs.progLen.toNat = s.prog.length % 2 ^ 32 ∧
    s.statusRegs.memSize.toNat = s.cfgMemSize % 2 ^ 33 ∧ s.statusRegs.errPc = s.err.pc ∧ s.statusRegs.lastInsn = s.lastInsn

/-- R123, R124: after TEARDOWN no engine exists, and every command but INIT fails with NO_ENGINE until the next INIT. What a
torn-down unit's elements hold is the model's choice (log 7); that TEARDOWN without an engine fails too is log 8. -/
def Obligations.CommandsNeedAnEngine : Prop :=
  ∀ (s : State) (c : HostCmd) (cs : List HostCmd), s.engineState ≠ .running → s.pending = c :: cs →
    (s.live = true → c = .teardown →
      ∃ t, step s = .next t ∧ t.live = false ∧ t.response = some .done ∧ t.pending = cs ∧ t.sp = 0 ∧ t.progLen = 0 ∧
        t.mem = [] ∧ t.engineState = .idle) ∧
    (s.live = false → (∀ n, c ≠ .init n) →
      step s = .next { s with pending := cs, events := [], response := some (.failure .invalidConfiguration .noEngine) })

/-- R270: a failed host command changes no state at all: the command is gone and the response is the failure. -/
def Obligations.FailedCommandsChangeNoState : Prop :=
  ∀ (s t : State) (c : HostCmd) (cs : List HostCmd) (k : Kind) (ca : Cause), s.engineState ≠ .running →
    s.pending = c :: cs → step s = .next t → t.response = some (.failure k ca) →
    t = { s with pending := cs, events := [], response := some (.failure k ca) }

/-! ### The other byte order -/

/-- I2 and R11 make `DATA_ENDIAN` a parameter; R62 gives only `LITTLE`'s layout. The other value is the model's reading (log 23,
DEDUCED): with it the lowest address of a word holds bits 31:24, for STORE and for LOAD_MEM alike. -/
def Obligations.BigEndianWordsAreReversed : Prop :=
  ∀ (s : State) (d : Byte) (addr : Word) (hd : d.toNat < 16), s.params.dataEndian = .big → addr.toNat + 4 ≤ s.cfgMemSize →
    (∃ t, exec (.store d addr) s = .next t ∧
      t.readByte addr.toNat = (s.readReg ⟨d.toNat, hd⟩).extractLsb' 24 8 ∧
      t.readByte (addr.toNat + 1) = (s.readReg ⟨d.toNat, hd⟩).extractLsb' 16 8 ∧
      t.readByte (addr.toNat + 2) = (s.readReg ⟨d.toNat, hd⟩).extractLsb' 8 8 ∧
      t.readByte (addr.toNat + 3) = (s.readReg ⟨d.toNat, hd⟩).extractLsb' 0 8 ∧ KeepsMemBut s t addr.toNat 4) ∧
    ∃ t, exec (.loadMem d addr) s = .next t ∧
      t.readReg ⟨d.toNat, hd⟩ = s.readByte addr.toNat ++ s.readByte (addr.toNat + 1) ++ s.readByte (addr.toNat + 2) ++
        s.readByte (addr.toNat + 3)
end

