-- ==== Sys2Proof/Laws/Decode.lean ====
section
/-! SUPPORT. The fields of a packed record, the opcode numbers, and the serialized form. -/

namespace Sys2Proof

/-! ### Fields of a packed record -/

@[simp] theorem opcodeField_pack (n : OpcodeNums) (o : Opcode) (d : Byte) (a b : Word) :
    opcodeField (pack n o d a b) = o.code n := by
  apply BitVec.eq_of_getLsbD_eq
  intro i hi
  simp only [opcodeField, pack, BitVec.getLsbD_extractLsb', BitVec.getLsbD_append]
  simp [hi]

@[simp] theorem destField_pack (n : OpcodeNums) (o : Opcode) (d : Byte) (a b : Word) :
    destField (pack n o d a b) = d := by
  apply BitVec.eq_of_getLsbD_eq
  intro i hi
  simp only [destField, pack, BitVec.getLsbD_extractLsb', BitVec.getLsbD_append]
  simp [hi]

@[simp] theorem operand1Field_pack (n : OpcodeNums) (o : Opcode) (d : Byte) (a b : Word) :
    operand1Field (pack n o d a b) = a := by
  apply BitVec.eq_of_getLsbD_eq
  intro i hi
  simp only [operand1Field, pack, BitVec.getLsbD_extractLsb', BitVec.getLsbD_append]
  simp [hi, show ¬ 16 + i < 8 by omega, show ¬ 16 + i - 8 < 8 by omega, show 16 + i - 8 - 8 = i by omega]

@[simp] theorem operand2Field_pack (n : OpcodeNums) (o : Opcode) (d : Byte) (a b : Word) :
    operand2Field (pack n o d a b) = b := by
  apply BitVec.eq_of_getLsbD_eq
  intro i hi
  simp only [operand2Field, pack, BitVec.getLsbD_extractLsb', BitVec.getLsbD_append]
  simp [hi, show ¬ 48 + i < 8 by omega, show ¬ 48 + i - 8 < 8 by omega, show ¬ 48 + i - 8 - 8 < 32 by omega,
    show 48 + i - 8 - 8 - 32 = i by omega]

/-- A record is its four fields (R90). -/
theorem fields_append (w : Record) : operand2Field w ++ operand1Field w ++ destField w ++ opcodeField w = w := by
  apply BitVec.eq_of_getLsbD_eq
  intro i hi
  have h80 : i < 80 := hi
  simp only [operand2Field, operand1Field, destField, opcodeField, BitVec.getLsbD_append, BitVec.getLsbD_extractLsb']
  split
  · next h => simp [h]
  · split
    · next h h' => simp [h', show 8 + (i - 8) = i by omega]
    · split
      · next h h' h'' => simp [h'', show 16 + (i - 8 - 8) = i by omega]
      · next h h' h'' => simp [show i - 8 - 8 - 32 < 32 by omega, show 48 + (i - 8 - 8 - 32) = i by omega]

/-! ### Opcode numbers -/

theorem ofByte_code {n : OpcodeNums} (h : n.Legal) (o : Opcode) : Opcode.ofByte n (o.code n) = some o := by
  obtain ⟨hc, hr, hne⟩ := h
  have lit : ∀ (k x : Byte), k.toNat ≤ 18 → 18 < x.toNat → (k == x) = false := fun k x hk hx =>
    beq_eq_false_iff_ne.2 fun he => by rw [he] at hk; omega
  have key : ∀ x : Byte, 18 < x.toNat →
      Opcode.ofByte n x = if n.call = x then some .call else if n.ret = x then some .ret else none := by
    intro x hx
    unfold Opcode.ofByte Opcode.all
    simp only [List.find?, Opcode.code]
    repeat rw [lit _ x (by decide) hx]
    by_cases h1 : n.call = x
    · simp [h1]
    · rw [beq_eq_false_iff_ne.2 h1, if_neg h1]
      by_cases h2 : n.ret = x
      · simp [h2]
      · rw [beq_eq_false_iff_ne.2 h2, if_neg h2]
  cases o
  case call => rw [Opcode.code, key _ hc, if_pos rfl]
  case ret => rw [Opcode.code, key _ hr, if_neg hne, if_pos rfl]
  all_goals rfl

theorem ofByte_eq_some {n : OpcodeNums} {b : Byte} {o : Opcode} (h : Opcode.ofByte n b = some o) : b = o.code n := by
  have := List.find?_some h
  exact (beq_iff_eq.1 this).symm

theorem standard_legal : OpcodeNums.standard.Legal := by unfold OpcodeNums.Legal; decide

theorem mem_all (o : Opcode) : o ∈ Opcode.all := by cases o <;> decide

theorem ofByte_eq_none {n : OpcodeNums} {b : Byte} : Opcode.ofByte n b = none ↔ ∀ o : Opcode, o.code n ≠ b := by
  unfold Opcode.ofByte
  rw [List.find?_eq_none]
  exact ⟨fun h o => by simpa using h o (mem_all o), fun h o _ => by simpa using h o⟩

/-- Decoding a packed record selects its operation. -/
theorem decode_pack {n : OpcodeNums} (h : n.Legal) (o : Opcode) (d : Byte) (a b : Word) :
    decode n (pack n o d a b) = .ok (assemble (pack n o d a b) o) := by
  unfold decode
  rw [opcodeField_pack, ofByte_code h]

/-! ### The serialized form -/

/-- The ten bytes of a record (R91). -/
theorem serialize_eq (w : Record) : serialize w =
    [w.extractLsb' 0 8, w.extractLsb' 8 8, w.extractLsb' 16 8, w.extractLsb' 24 8, w.extractLsb' 32 8, w.extractLsb' 40 8,
      w.extractLsb' 48 8, w.extractLsb' 56 8, w.extractLsb' 64 8, w.extractLsb' 72 8] := rfl

@[simp] theorem length_serialize (w : Record) : (serialize w).length = 10 := rfl

/-- Two adjacent fields put together are one field. -/
theorem extract_append (w : Record) {a b m k : Nat} (h : b = a + m) :
    w.extractLsb' b k ++ w.extractLsb' a m = w.extractLsb' a (k + m) := by
  subst h
  apply BitVec.eq_of_getLsbD_eq
  intro i hi
  rw [BitVec.getLsbD_append]
  split
  · next hlt => simp [hlt, hi]
  · next hge => simp [hi, show i - m < k by omega, show a + m + (i - m) = a + i by omega]

/-- Ten bytes put together again are the record they were cut from. -/
theorem bytes_append (w : Record) :
    w.extractLsb' 72 8 ++ w.extractLsb' 64 8 ++ w.extractLsb' 56 8 ++ w.extractLsb' 48 8 ++ w.extractLsb' 40 8 ++
      w.extractLsb' 32 8 ++ w.extractLsb' 24 8 ++ w.extractLsb' 16 8 ++ w.extractLsb' 8 8 ++ w.extractLsb' 0 8 = w := by
  rw [extract_append w (by rfl), extract_append w (by rfl), extract_append w (by rfl), extract_append w (by rfl),
    extract_append w (by rfl), extract_append w (by rfl), extract_append w (by rfl), extract_append w (by rfl),
    extract_append w (by rfl)]
  exact BitVec.extractLsb'_eq_self

/-- Reading a serialized program back. -/
theorem deserialize_serialize_append (w : Record) (bs : List Byte) {rs : List Record} (h : deserialize bs = .ok rs) :
    deserialize (serialize w ++ bs) = .ok (w :: rs) := by
  rw [serialize_eq]
  simp only [List.cons_append, List.nil_append, deserialize, h, bytes_append]

/-- Decoding the bytes of one record. -/
theorem decodeBytes_serialize {n : OpcodeNums} (w : Record) {i : Instr} (h : decode n w = .ok i) :
    decodeBytes n (serialize w) = .ok (i, []) := by
  rw [serialize_eq]
  simp only [decodeBytes, bytes_append, h]

end Sys2Proof
end

