-- ==== Sys2Proof/Laws/Memory.lean ====
section
/-! SUPPORT. What the data-memory operations do: a read after a store, the canonical form, words, and the overlap-safe
copy. -/

namespace Sys2Proof

/-! ### Byte order -/

@[simp] theorem Endian.lane_lane (e : Endian) {k : Nat} (h : k < 4) : e.lane (e.lane k) = k := by
  cases e
  · rfl
  · simp only [Endian.lane]; omega

theorem Endian.lane_lt (e : Endian) {k : Nat} (h : k < 4) : e.lane k < 4 := by
  cases e
  · exact h
  · simp only [Endian.lane]; omega

end Sys2Proof

namespace Sys2Proof.Machine

/-! ### One byte -/

@[simp] theorem Memory.lookup_store_same (a : Nat) (b : Byte) (m : Memory) : (m.store a b).lookup a = some b := by
  induction m with
  | nil => simp [Memory.store, Memory.lookup]
  | cons c m ih =>
    simp only [Memory.store]
    split
    · simp [Memory.lookup]
    · split
      · simp [Memory.lookup]
      · have hne : ¬ c.1 = a := fun h => ‹¬ a = c.1› h.symm
        simp [Memory.lookup, hne, ih]

theorem Memory.lookup_store_other {a x : Nat} (h : x ≠ a) (b : Byte) (m : Memory) :
    (m.store a b).lookup x = m.lookup x := by
  induction m with
  | nil => simp [Memory.store, Memory.lookup, Ne.symm h]
  | cons c m ih =>
    simp only [Memory.store]
    split
    · simp [Memory.lookup, Ne.symm h]
    · split
      · rename_i heq
        subst heq
        simp [Memory.lookup, Ne.symm h]
      · simp [Memory.lookup, ih]

@[simp] theorem Memory.read_store_same (draw a : Nat) (b : Byte) (m : Memory) : (m.store a b).read draw a = b := by
  simp [Memory.read]

theorem Memory.read_store_other (draw : Nat) {a x : Nat} (h : x ≠ a) (b : Byte) (m : Memory) :
    (m.store a b).read draw x = m.read draw x := by
  simp [Memory.read, Memory.lookup_store_other h]

/-- A read after a store, said for every address at once. -/
theorem Memory.read_store (draw a x : Nat) (b : Byte) (m : Memory) :
    (m.store a b).read draw x = if x = a then b else m.read draw x := by
  split
  · next h => subst h; simp
  · next h => exact Memory.read_store_other draw h b m

theorem Memory.mem_store {a : Nat} {b : Byte} {m : Memory} {c : Host.Cell} (h : c ∈ m.store a b) :
    c = (a, b) ∨ c ∈ m := by
  induction m with
  | nil => simpa [Memory.store] using h
  | cons d m ih =>
    simp only [Memory.store] at h
    split at h
    · simpa using h
    · split at h
      · rcases List.mem_cons.1 h with h | h
        · exact .inl h
        · exact .inr (List.mem_cons_of_mem _ h)
      · rcases List.mem_cons.1 h with h | h
        · exact .inr (h ▸ List.mem_cons_self)
        · rcases ih h with h | h
          · exact .inl h
          · exact .inr (List.mem_cons_of_mem _ h)

/-! ### The canonical form -/

theorem Memory.store_wf {m : Memory} (h : m.wf) (a : Nat) (b : Byte) : (m.store a b).wf := by
  induction m with
  | nil => simp [Memory.store, Memory.wf]
  | cons c m ih =>
    obtain ⟨hc, hm⟩ := List.pairwise_cons.1 h
    simp only [Memory.store]
    split
    · next hlt =>
      refine List.pairwise_cons.2 ⟨fun d hd => ?_, h⟩
      rcases List.mem_cons.1 hd with rfl | hd
      · exact hlt
      · exact Nat.lt_trans hlt (hc d hd)
    · split
      · next heq => exact List.pairwise_cons.2 ⟨fun d hd => heq ▸ hc d hd, hm⟩
      · refine List.pairwise_cons.2 ⟨fun d hd => ?_, ih hm⟩
        rcases Memory.mem_store hd with rfl | hd
        · show c.1 < a
          omega
        · exact hc d hd

theorem Memory.writeWord_wf {m : Memory} (h : m.wf) (e : Endian) (a : Nat) (v : Word) : (m.writeWord e a v).wf :=
  Memory.store_wf (Memory.store_wf (Memory.store_wf (Memory.store_wf h _ _) _ _) _ _) _ _

/-- Memory after INIT has the canonical form, and so has the memory of the reset state. -/
theorem afterInit_mem_wf (p : Params) (n draw c : Nat) (cs : List HostCmd) : (State.afterInit p n draw c cs).mem.wf :=
  List.Pairwise.nil

theorem reset_mem_wf : State.reset.mem.wf := afterInit_mem_wf _ _ _ _ _

theorem Memory.copyForward_wf (draw : Nat) (n : Nat) :
    ∀ {m : Memory}, m.wf → ∀ d s : Nat, (m.copyForward draw d s n).wf := by
  induction n with
  | zero => intro m h d s; exact h
  | succ n ih => intro m h d s; exact ih (Memory.store_wf h _ _) _ _

theorem Memory.copyBackward_wf (draw d s : Nat) (n : Nat) :
    ∀ {m : Memory}, m.wf → (m.copyBackward draw d s n).wf := by
  induction n with
  | zero => intro m h; exact h
  | succ n ih => intro m h; exact ih (Memory.store_wf h _ _)

/-- Every memory operation keeps the canonical form: `store_wf`, `writeWord_wf` and this one. -/
theorem Memory.copy_wf {m : Memory} (h : m.wf) (draw d s n : Nat) : (m.copy draw d s n).wf := by
  unfold Memory.copy
  split
  · exact Memory.copyForward_wf draw n h d s
  · split
    · exact Memory.copyBackward_wf draw d s n h
    · exact h

/-! ### Words -/

/-- What every address reads as after a word is written. -/
theorem Memory.read_writeWord (e : Endian) (draw a x : Nat) (v : Word) (m : Memory) :
    (m.writeWord e a v).read draw x = if a ≤ x ∧ x < a + 4 then byteOf v (e.lane (x - a)) else m.read draw x := by
  simp only [Memory.writeWord, Memory.read_store]
  by_cases h3 : x = a + 3
  · subst h3; simp
  · by_cases h2 : x = a + 2
    · subst h2; simp
    · by_cases h1 : x = a + 1
      · subst h1; simp
      · by_cases h0 : x = a
        · subst h0; simp
        · have : ¬ (a ≤ x ∧ x < a + 4) := by omega
          simp [h0, h1, h2, h3, this]

theorem byteOf_append (v : Word) : byteOf v 3 ++ byteOf v 2 ++ byteOf v 1 ++ byteOf v 0 = v := by
  apply BitVec.eq_of_getLsbD_eq
  intro i hi
  simp only [byteOf, BitVec.getLsbD_append, BitVec.getLsbD_extractLsb']
  have h32 : i < 32 := hi
  split
  · next h => simp [h]
  · split
    · next h h' => simp [h', show 8 + (i - 8) = i by omega]
    · split
      · next h h' h'' => simp [show i - 8 - 8 < 8 by omega, show 16 + (i - 8 - 8) = i by omega]
      · next h h' h'' => simp [show i - 8 - 8 - 8 < 8 by omega, show 24 + (i - 8 - 8 - 8) = i by omega]

/-- A word read back from where it was written. -/
theorem Memory.readWord_writeWord (e : Endian) (draw a : Nat) (v : Word) (m : Memory) :
    (m.writeWord e a v).readWord e draw a = v := by
  have h : ∀ k, k < 4 → (m.writeWord e a v).read draw (a + e.lane k) = byteOf v k := by
    intro k hk
    have := e.lane_lt hk
    rw [Memory.read_writeWord, if_pos (by omega), Nat.add_sub_cancel_left, e.lane_lane hk]
  have h0 := h 0 (by decide)
  have h1 := h 1 (by decide)
  have h2 := h 2 (by decide)
  have h3 := h 3 (by decide)
  rw [Memory.readWord, h0, h1, h2, h3, byteOf_append]

theorem Memory.mem_writeWord {e : Endian} {a : Nat} {v : Word} {m : Memory} {c : Host.Cell} (h : c ∈ m.writeWord e a v) :
    (a ≤ c.1 ∧ c.1 < a + 4) ∨ c ∈ m := by
  unfold Memory.writeWord at h
  rcases Memory.mem_store h with rfl | h
  · exact .inl ⟨by simp, by simp⟩
  · rcases Memory.mem_store h with rfl | h
    · exact .inl ⟨by simp, by simp⟩
    · rcases Memory.mem_store h with rfl | h
      · exact .inl ⟨by simp, by simp⟩
      · rcases Memory.mem_store h with rfl | h
        · exact .inl ⟨by simp, by simp⟩
        · exact .inr h

/-! ### The block copy -/

theorem Memory.read_copyForward (draw : Nat) (n : Nat) :
    ∀ (d s : Nat) (m : Memory), d < s → ∀ x,
      (m.copyForward draw d s n).read draw x = if d ≤ x ∧ x < d + n then m.read draw (s + (x - d)) else m.read draw x := by
  induction n with
  | zero =>
    intro d s m _ x
    rw [if_neg (by omega)]
    rfl
  | succ n ih =>
    intro d s m hds x
    rw [Memory.copyForward, ih (d + 1) (s + 1) _ (by omega) x]
    by_cases hx : x = d
    · subst hx
      rw [if_neg (by omega), if_pos (by omega), Memory.read_store_same]
      simp
    · by_cases hin : d + 1 ≤ x ∧ x < d + 1 + n
      · rw [if_pos hin, if_pos (by omega), Memory.read_store_other draw (by omega)]
        congr 1
        omega
      · rw [if_neg hin, if_neg (by omega), Memory.read_store_other draw hx]

theorem Memory.read_copyBackward (draw d s : Nat) (hsd : s < d) (n : Nat) :
    ∀ (m : Memory) (x : Nat),
      (m.copyBackward draw d s n).read draw x =
        if d ≤ x ∧ x < d + n then m.read draw (s + (x - d)) else m.read draw x := by
  induction n with
  | zero =>
    intro m x
    rw [if_neg (by omega)]
    rfl
  | succ n ih =>
    intro m x
    rw [Memory.copyBackward, ih]
    by_cases hx : x = d + n
    · subst hx
      rw [if_neg (by omega), if_pos (by omega), Memory.read_store_same]
      congr 1
      omega
    · by_cases hin : d ≤ x ∧ x < d + n
      · rw [if_pos hin, if_pos (by omega), Memory.read_store_other draw (by omega)]
      · rw [if_neg hin, if_neg (by omega), Memory.read_store_other draw hx]

/-- Whatever the overlap, a copy moves the bytes the source held before it and touches no other byte (R246). -/
theorem Memory.read_copy (draw d s n : Nat) (m : Memory) (x : Nat) :
    (m.copy draw d s n).read draw x = if d ≤ x ∧ x < d + n then m.read draw (s + (x - d)) else m.read draw x := by
  unfold Memory.copy
  split
  · next h => exact Memory.read_copyForward draw n d s m h x
  · split
    · next h => exact Memory.read_copyBackward draw d s h n m x
    · have hds : d = s := by omega
      subst hds
      split
      · next h => congr 1; omega
      · rfl

theorem Memory.mem_copyForward (draw : Nat) (n : Nat) :
    ∀ (d s : Nat) (m : Memory) (c : Host.Cell),
      c ∈ m.copyForward draw d s n → (d ≤ c.1 ∧ c.1 < d + n) ∨ c ∈ m := by
  induction n with
  | zero => intro d s m c h; exact .inr h
  | succ n ih =>
    intro d s m c h
    rcases ih _ _ _ _ h with h | h
    · exact .inl (by omega)
    · rcases Memory.mem_store h with rfl | h
      · exact .inl ⟨by simp, by simp⟩
      · exact .inr h

theorem Memory.mem_copyBackward (draw d s : Nat) (n : Nat) :
    ∀ (m : Memory) (c : Host.Cell), c ∈ m.copyBackward draw d s n → (d ≤ c.1 ∧ c.1 < d + n) ∨ c ∈ m := by
  induction n with
  | zero => intro m c h; exact .inr h
  | succ n ih =>
    intro m c h
    rcases ih _ _ h with h | h
    · exact .inl (by omega)
    · rcases Memory.mem_store h with rfl | h
      · exact .inl ⟨by simp, by simp⟩
      · exact .inr h

/-- A copy lists no address but those it writes and those listed before. -/
theorem Memory.mem_copy {draw d s n : Nat} {m : Memory} {c : Host.Cell} (h : c ∈ m.copy draw d s n) :
    (d ≤ c.1 ∧ c.1 < d + n) ∨ c ∈ m := by
  unfold Memory.copy at h
  split at h
  · exact Memory.mem_copyForward draw n d s m c h
  · split at h
    · exact Memory.mem_copyBackward draw d s n m c h
    · exact .inr h

end Sys2Proof.Machine
end

