-- ==== Sys2Proof/Laws/State.lean ====
section
/-! SUPPORT. One lemma for each field of `State` and each update of it, so that no proof unfolds a record update. -/

namespace Sys2Proof.Machine

variable (s : State)

/-! ### writeReg -/

@[simp] theorem writeReg_params (i : Fin 16) (v : Word) : (s.writeReg i v).params = s.params := rfl
@[simp] theorem writeReg_live (i : Fin 16) (v : Word) : (s.writeReg i v).live = s.live := rfl
@[simp] theorem writeReg_regs (i : Fin 16) (v : Word) : (s.writeReg i v).regs = s.regs.set i v := rfl
@[simp] theorem writeReg_pc (i : Fin 16) (v : Word) : (s.writeReg i v).pc = s.pc := rfl
@[simp] theorem writeReg_cmpFlag (i : Fin 16) (v : Word) : (s.writeReg i v).cmpFlag = s.cmpFlag := rfl
@[simp] theorem writeReg_stack (i : Fin 16) (v : Word) : (s.writeReg i v).stack = s.stack := rfl
@[simp] theorem writeReg_mem (i : Fin 16) (v : Word) : (s.writeReg i v).mem = s.mem := rfl
@[simp] theorem writeReg_memDraw (i : Fin 16) (v : Word) : (s.writeReg i v).memDraw = s.memDraw := rfl
@[simp] theorem writeReg_cfgMemSize (i : Fin 16) (v : Word) : (s.writeReg i v).cfgMemSize = s.cfgMemSize := rfl
@[simp] theorem writeReg_prog (i : Fin 16) (v : Word) : (s.writeReg i v).prog = s.prog := rfl
@[simp] theorem writeReg_engineState (i : Fin 16) (v : Word) : (s.writeReg i v).engineState = s.engineState := rfl
@[simp] theorem writeReg_err (i : Fin 16) (v : Word) : (s.writeReg i v).err = s.err := rfl
@[simp] theorem writeReg_lastInsn (i : Fin 16) (v : Word) : (s.writeReg i v).lastInsn = s.lastInsn := rfl
@[simp] theorem writeReg_lastValid (i : Fin 16) (v : Word) : (s.writeReg i v).lastValid = s.lastValid := rfl
@[simp] theorem writeReg_execCount (i : Fin 16) (v : Word) : (s.writeReg i v).execCount = s.execCount := rfl
@[simp] theorem writeReg_icache (i : Fin 16) (v : Word) : (s.writeReg i v).icache = s.icache := rfl
@[simp] theorem writeReg_cacheDraw (i : Fin 16) (v : Word) : (s.writeReg i v).cacheDraw = s.cacheDraw := rfl
@[simp] theorem writeReg_pending (i : Fin 16) (v : Word) : (s.writeReg i v).pending = s.pending := rfl
@[simp] theorem writeReg_response (i : Fin 16) (v : Word) : (s.writeReg i v).response = s.response := rfl
@[simp] theorem writeReg_events (i : Fin 16) (v : Word) : (s.writeReg i v).events = s.events := rfl

/-! ### setPc -/

@[simp] theorem setPc_params (t : Word) : (s.setPc t).params = s.params := rfl
@[simp] theorem setPc_live (t : Word) : (s.setPc t).live = s.live := rfl
@[simp] theorem setPc_regs (t : Word) : (s.setPc t).regs = s.regs := rfl
@[simp] theorem setPc_pc (t : Word) : (s.setPc t).pc = t := rfl
@[simp] theorem setPc_cmpFlag (t : Word) : (s.setPc t).cmpFlag = s.cmpFlag := rfl
@[simp] theorem setPc_stack (t : Word) : (s.setPc t).stack = s.stack := rfl
@[simp] theorem setPc_mem (t : Word) : (s.setPc t).mem = s.mem := rfl
@[simp] theorem setPc_memDraw (t : Word) : (s.setPc t).memDraw = s.memDraw := rfl
@[simp] theorem setPc_cfgMemSize (t : Word) : (s.setPc t).cfgMemSize = s.cfgMemSize := rfl
@[simp] theorem setPc_prog (t : Word) : (s.setPc t).prog = s.prog := rfl
@[simp] theorem setPc_engineState (t : Word) : (s.setPc t).engineState = s.engineState := rfl
@[simp] theorem setPc_err (t : Word) : (s.setPc t).err = s.err := rfl
@[simp] theorem setPc_lastInsn (t : Word) : (s.setPc t).lastInsn = s.lastInsn := rfl
@[simp] theorem setPc_lastValid (t : Word) : (s.setPc t).lastValid = s.lastValid := rfl
@[simp] theorem setPc_execCount (t : Word) : (s.setPc t).execCount = s.execCount := rfl
@[simp] theorem setPc_icache (t : Word) : (s.setPc t).icache = s.icache := rfl
@[simp] theorem setPc_cacheDraw (t : Word) : (s.setPc t).cacheDraw = s.cacheDraw := rfl
@[simp] theorem setPc_pending (t : Word) : (s.setPc t).pending = s.pending := rfl
@[simp] theorem setPc_response (t : Word) : (s.setPc t).response = s.response := rfl
@[simp] theorem setPc_events (t : Word) : (s.setPc t).events = s.events := rfl

/-! ### setCmpFlag -/

@[simp] theorem setCmpFlag_params (f : CmpFlag) : (s.setCmpFlag f).params = s.params := rfl
@[simp] theorem setCmpFlag_live (f : CmpFlag) : (s.setCmpFlag f).live = s.live := rfl
@[simp] theorem setCmpFlag_regs (f : CmpFlag) : (s.setCmpFlag f).regs = s.regs := rfl
@[simp] theorem setCmpFlag_pc (f : CmpFlag) : (s.setCmpFlag f).pc = s.pc := rfl
@[simp] theorem setCmpFlag_cmpFlag (f : CmpFlag) : (s.setCmpFlag f).cmpFlag = f := rfl
@[simp] theorem setCmpFlag_stack (f : CmpFlag) : (s.setCmpFlag f).stack = s.stack := rfl
@[simp] theorem setCmpFlag_mem (f : CmpFlag) : (s.setCmpFlag f).mem = s.mem := rfl
@[simp] theorem setCmpFlag_memDraw (f : CmpFlag) : (s.setCmpFlag f).memDraw = s.memDraw := rfl
@[simp] theorem setCmpFlag_cfgMemSize (f : CmpFlag) : (s.setCmpFlag f).cfgMemSize = s.cfgMemSize := rfl
@[simp] theorem setCmpFlag_prog (f : CmpFlag) : (s.setCmpFlag f).prog = s.prog := rfl
@[simp] theorem setCmpFlag_engineState (f : CmpFlag) : (s.setCmpFlag f).engineState = s.engineState := rfl
@[simp] theorem setCmpFlag_err (f : CmpFlag) : (s.setCmpFlag f).err = s.err := rfl
@[simp] theorem setCmpFlag_lastInsn (f : CmpFlag) : (s.setCmpFlag f).lastInsn = s.lastInsn := rfl
@[simp] theorem setCmpFlag_lastValid (f : CmpFlag) : (s.setCmpFlag f).lastValid = s.lastValid := rfl
@[simp] theorem setCmpFlag_execCount (f : CmpFlag) : (s.setCmpFlag f).execCount = s.execCount := rfl
@[simp] theorem setCmpFlag_icache (f : CmpFlag) : (s.setCmpFlag f).icache = s.icache := rfl
@[simp] theorem setCmpFlag_cacheDraw (f : CmpFlag) : (s.setCmpFlag f).cacheDraw = s.cacheDraw := rfl
@[simp] theorem setCmpFlag_pending (f : CmpFlag) : (s.setCmpFlag f).pending = s.pending := rfl
@[simp] theorem setCmpFlag_response (f : CmpFlag) : (s.setCmpFlag f).response = s.response := rfl
@[simp] theorem setCmpFlag_events (f : CmpFlag) : (s.setCmpFlag f).events = s.events := rfl

/-! ### setStack -/

@[simp] theorem setStack_params (st : List Word) : (s.setStack st).params = s.params := rfl
@[simp] theorem setStack_live (st : List Word) : (s.setStack st).live = s.live := rfl
@[simp] theorem setStack_regs (st : List Word) : (s.setStack st).regs = s.regs := rfl
@[simp] theorem setStack_pc (st : List Word) : (s.setStack st).pc = s.pc := rfl
@[simp] theorem setStack_cmpFlag (st : List Word) : (s.setStack st).cmpFlag = s.cmpFlag := rfl
@[simp] theorem setStack_stack (st : List Word) : (s.setStack st).stack = st := rfl
@[simp] theorem setStack_mem (st : List Word) : (s.setStack st).mem = s.mem := rfl
@[simp] theorem setStack_memDraw (st : List Word) : (s.setStack st).memDraw = s.memDraw := rfl
@[simp] theorem setStack_cfgMemSize (st : List Word) : (s.setStack st).cfgMemSize = s.cfgMemSize := rfl
@[simp] theorem setStack_prog (st : List Word) : (s.setStack st).prog = s.prog := rfl
@[simp] theorem setStack_engineState (st : List Word) : (s.setStack st).engineState = s.engineState := rfl
@[simp] theorem setStack_err (st : List Word) : (s.setStack st).err = s.err := rfl
@[simp] theorem setStack_lastInsn (st : List Word) : (s.setStack st).lastInsn = s.lastInsn := rfl
@[simp] theorem setStack_lastValid (st : List Word) : (s.setStack st).lastValid = s.lastValid := rfl
@[simp] theorem setStack_execCount (st : List Word) : (s.setStack st).execCount = s.execCount := rfl
@[simp] theorem setStack_icache (st : List Word) : (s.setStack st).icache = s.icache := rfl
@[simp] theorem setStack_cacheDraw (st : List Word) : (s.setStack st).cacheDraw = s.cacheDraw := rfl
@[simp] theorem setStack_pending (st : List Word) : (s.setStack st).pending = s.pending := rfl
@[simp] theorem setStack_response (st : List Word) : (s.setStack st).response = s.response := rfl
@[simp] theorem setStack_events (st : List Word) : (s.setStack st).events = s.events := rfl

/-! ### setMem -/

@[simp] theorem setMem_params (m : Memory) : (s.setMem m).params = s.params := rfl
@[simp] theorem setMem_live (m : Memory) : (s.setMem m).live = s.live := rfl
@[simp] theorem setMem_regs (m : Memory) : (s.setMem m).regs = s.regs := rfl
@[simp] theorem setMem_pc (m : Memory) : (s.setMem m).pc = s.pc := rfl
@[simp] theorem setMem_cmpFlag (m : Memory) : (s.setMem m).cmpFlag = s.cmpFlag := rfl
@[simp] theorem setMem_stack (m : Memory) : (s.setMem m).stack = s.stack := rfl
@[simp] theorem setMem_mem (m : Memory) : (s.setMem m).mem = m := rfl
@[simp] theorem setMem_memDraw (m : Memory) : (s.setMem m).memDraw = s.memDraw := rfl
@[simp] theorem setMem_cfgMemSize (m : Memory) : (s.setMem m).cfgMemSize = s.cfgMemSize := rfl
@[simp] theorem setMem_prog (m : Memory) : (s.setMem m).prog = s.prog := rfl
@[simp] theorem setMem_engineState (m : Memory) : (s.setMem m).engineState = s.engineState := rfl
@[simp] theorem setMem_err (m : Memory) : (s.setMem m).err = s.err := rfl
@[simp] theorem setMem_lastInsn (m : Memory) : (s.setMem m).lastInsn = s.lastInsn := rfl
@[simp] theorem setMem_lastValid (m : Memory) : (s.setMem m).lastValid = s.lastValid := rfl
@[simp] theorem setMem_execCount (m : Memory) : (s.setMem m).execCount = s.execCount := rfl
@[simp] theorem setMem_icache (m : Memory) : (s.setMem m).icache = s.icache := rfl
@[simp] theorem setMem_cacheDraw (m : Memory) : (s.setMem m).cacheDraw = s.cacheDraw := rfl
@[simp] theorem setMem_pending (m : Memory) : (s.setMem m).pending = s.pending := rfl
@[simp] theorem setMem_response (m : Memory) : (s.setMem m).response = s.response := rfl
@[simp] theorem setMem_events (m : Memory) : (s.setMem m).events = s.events := rfl

/-! ### setExecCount -/

@[simp] theorem setExecCount_params (c : List (BitVec 32)) : (s.setExecCount c).params = s.params := rfl
@[simp] theorem setExecCount_live (c : List (BitVec 32)) : (s.setExecCount c).live = s.live := rfl
@[simp] theorem setExecCount_regs (c : List (BitVec 32)) : (s.setExecCount c).regs = s.regs := rfl
@[simp] theorem setExecCount_pc (c : List (BitVec 32)) : (s.setExecCount c).pc = s.pc := rfl
@[simp] theorem setExecCount_cmpFlag (c : List (BitVec 32)) : (s.setExecCount c).cmpFlag = s.cmpFlag := rfl
@[simp] theorem setExecCount_stack (c : List (BitVec 32)) : (s.setExecCount c).stack = s.stack := rfl
@[simp] theorem setExecCount_mem (c : List (BitVec 32)) : (s.setExecCount c).mem = s.mem := rfl
@[simp] theorem setExecCount_memDraw (c : List (BitVec 32)) : (s.setExecCount c).memDraw = s.memDraw := rfl
@[simp] theorem setExecCount_cfgMemSize (c : List (BitVec 32)) : (s.setExecCount c).cfgMemSize = s.cfgMemSize := rfl
@[simp] theorem setExecCount_prog (c : List (BitVec 32)) : (s.setExecCount c).prog = s.prog := rfl
@[simp] theorem setExecCount_engineState (c : List (BitVec 32)) : (s.setExecCount c).engineState = s.engineState := rfl
@[simp] theorem setExecCount_err (c : List (BitVec 32)) : (s.setExecCount c).err = s.err := rfl
@[simp] theorem setExecCount_lastInsn (c : List (BitVec 32)) : (s.setExecCount c).lastInsn = s.lastInsn := rfl
@[simp] theorem setExecCount_lastValid (c : List (BitVec 32)) : (s.setExecCount c).lastValid = s.lastValid := rfl
@[simp] theorem setExecCount_execCount (c : List (BitVec 32)) : (s.setExecCount c).execCount = c := rfl
@[simp] theorem setExecCount_icache (c : List (BitVec 32)) : (s.setExecCount c).icache = s.icache := rfl
@[simp] theorem setExecCount_cacheDraw (c : List (BitVec 32)) : (s.setExecCount c).cacheDraw = s.cacheDraw := rfl
@[simp] theorem setExecCount_pending (c : List (BitVec 32)) : (s.setExecCount c).pending = s.pending := rfl
@[simp] theorem setExecCount_response (c : List (BitVec 32)) : (s.setExecCount c).response = s.response := rfl
@[simp] theorem setExecCount_events (c : List (BitVec 32)) : (s.setExecCount c).events = s.events := rfl

/-! ### setICache -/

@[simp] theorem setICache_params (c : ICache) : (s.setICache c).params = s.params := rfl
@[simp] theorem setICache_live (c : ICache) : (s.setICache c).live = s.live := rfl
@[simp] theorem setICache_regs (c : ICache) : (s.setICache c).regs = s.regs := rfl
@[simp] theorem setICache_pc (c : ICache) : (s.setICache c).pc = s.pc := rfl
@[simp] theorem setICache_cmpFlag (c : ICache) : (s.setICache c).cmpFlag = s.cmpFlag := rfl
@[simp] theorem setICache_stack (c : ICache) : (s.setICache c).stack = s.stack := rfl
@[simp] theorem setICache_mem (c : ICache) : (s.setICache c).mem = s.mem := rfl
@[simp] theorem setICache_memDraw (c : ICache) : (s.setICache c).memDraw = s.memDraw := rfl
@[simp] theorem setICache_cfgMemSize (c : ICache) : (s.setICache c).cfgMemSize = s.cfgMemSize := rfl
@[simp] theorem setICache_prog (c : ICache) : (s.setICache c).prog = s.prog := rfl
@[simp] theorem setICache_engineState (c : ICache) : (s.setICache c).engineState = s.engineState := rfl
@[simp] theorem setICache_err (c : ICache) : (s.setICache c).err = s.err := rfl
@[simp] theorem setICache_lastInsn (c : ICache) : (s.setICache c).lastInsn = s.lastInsn := rfl
@[simp] theorem setICache_lastValid (c : ICache) : (s.setICache c).lastValid = s.lastValid := rfl
@[simp] theorem setICache_execCount (c : ICache) : (s.setICache c).execCount = s.execCount := rfl
@[simp] theorem setICache_icache (c : ICache) : (s.setICache c).icache = c := rfl
@[simp] theorem setICache_cacheDraw (c : ICache) : (s.setICache c).cacheDraw = s.cacheDraw := rfl
@[simp] theorem setICache_pending (c : ICache) : (s.setICache c).pending = s.pending := rfl
@[simp] theorem setICache_response (c : ICache) : (s.setICache c).response = s.response := rfl
@[simp] theorem setICache_events (c : ICache) : (s.setICache c).events = s.events := rfl

/-! ### setCacheDraw -/

@[simp] theorem setCacheDraw_params (n : Nat) : (s.setCacheDraw n).params = s.params := rfl
@[simp] theorem setCacheDraw_live (n : Nat) : (s.setCacheDraw n).live = s.live := rfl
@[simp] theorem setCacheDraw_regs (n : Nat) : (s.setCacheDraw n).regs = s.regs := rfl
@[simp] theorem setCacheDraw_pc (n : Nat) : (s.setCacheDraw n).pc = s.pc := rfl
@[simp] theorem setCacheDraw_cmpFlag (n : Nat) : (s.setCacheDraw n).cmpFlag = s.cmpFlag := rfl
@[simp] theorem setCacheDraw_stack (n : Nat) : (s.setCacheDraw n).stack = s.stack := rfl
@[simp] theorem setCacheDraw_mem (n : Nat) : (s.setCacheDraw n).mem = s.mem := rfl
@[simp] theorem setCacheDraw_memDraw (n : Nat) : (s.setCacheDraw n).memDraw = s.memDraw := rfl
@[simp] theorem setCacheDraw_cfgMemSize (n : Nat) : (s.setCacheDraw n).cfgMemSize = s.cfgMemSize := rfl
@[simp] theorem setCacheDraw_prog (n : Nat) : (s.setCacheDraw n).prog = s.prog := rfl
@[simp] theorem setCacheDraw_engineState (n : Nat) : (s.setCacheDraw n).engineState = s.engineState := rfl
@[simp] theorem setCacheDraw_err (n : Nat) : (s.setCacheDraw n).err = s.err := rfl
@[simp] theorem setCacheDraw_lastInsn (n : Nat) : (s.setCacheDraw n).lastInsn = s.lastInsn := rfl
@[simp] theorem setCacheDraw_lastValid (n : Nat) : (s.setCacheDraw n).lastValid = s.lastValid := rfl
@[simp] theorem setCacheDraw_execCount (n : Nat) : (s.setCacheDraw n).execCount = s.execCount := rfl
@[simp] theorem setCacheDraw_icache (n : Nat) : (s.setCacheDraw n).icache = s.icache := rfl
@[simp] theorem setCacheDraw_cacheDraw (n : Nat) : (s.setCacheDraw n).cacheDraw = n := rfl
@[simp] theorem setCacheDraw_pending (n : Nat) : (s.setCacheDraw n).pending = s.pending := rfl
@[simp] theorem setCacheDraw_response (n : Nat) : (s.setCacheDraw n).response = s.response := rfl
@[simp] theorem setCacheDraw_events (n : Nat) : (s.setCacheDraw n).events = s.events := rfl

/-! ### setEngine -/

@[simp] theorem setEngine_params (e : EngineState) : (s.setEngine e).params = s.params := rfl
@[simp] theorem setEngine_live (e : EngineState) : (s.setEngine e).live = s.live := rfl
@[simp] theorem setEngine_regs (e : EngineState) : (s.setEngine e).regs = s.regs := rfl
@[simp] theorem setEngine_pc (e : EngineState) : (s.setEngine e).pc = s.pc := rfl
@[simp] theorem setEngine_cmpFlag (e : EngineState) : (s.setEngine e).cmpFlag = s.cmpFlag := rfl
@[simp] theorem setEngine_stack (e : EngineState) : (s.setEngine e).stack = s.stack := rfl
@[simp] theorem setEngine_mem (e : EngineState) : (s.setEngine e).mem = s.mem := rfl
@[simp] theorem setEngine_memDraw (e : EngineState) : (s.setEngine e).memDraw = s.memDraw := rfl
@[simp] theorem setEngine_cfgMemSize (e : EngineState) : (s.setEngine e).cfgMemSize = s.cfgMemSize := rfl
@[simp] theorem setEngine_prog (e : EngineState) : (s.setEngine e).prog = s.prog := rfl
@[simp] theorem setEngine_engineState (e : EngineState) : (s.setEngine e).engineState = e := rfl
@[simp] theorem setEngine_err (e : EngineState) : (s.setEngine e).err = s.err := rfl
@[simp] theorem setEngine_lastInsn (e : EngineState) : (s.setEngine e).lastInsn = s.lastInsn := rfl
@[simp] theorem setEngine_lastValid (e : EngineState) : (s.setEngine e).lastValid = s.lastValid := rfl
@[simp] theorem setEngine_execCount (e : EngineState) : (s.setEngine e).execCount = s.execCount := rfl
@[simp] theorem setEngine_icache (e : EngineState) : (s.setEngine e).icache = s.icache := rfl
@[simp] theorem setEngine_cacheDraw (e : EngineState) : (s.setEngine e).cacheDraw = s.cacheDraw := rfl
@[simp] theorem setEngine_pending (e : EngineState) : (s.setEngine e).pending = s.pending := rfl
@[simp] theorem setEngine_response (e : EngineState) : (s.setEngine e).response = s.response := rfl
@[simp] theorem setEngine_events (e : EngineState) : (s.setEngine e).events = s.events := rfl

/-! ### setErr -/

@[simp] theorem setErr_params (e : ErrRecord) : (s.setErr e).params = s.params := rfl
@[simp] theorem setErr_live (e : ErrRecord) : (s.setErr e).live = s.live := rfl
@[simp] theorem setErr_regs (e : ErrRecord) : (s.setErr e).regs = s.regs := rfl
@[simp] theorem setErr_pc (e : ErrRecord) : (s.setErr e).pc = s.pc := rfl
@[simp] theorem setErr_cmpFlag (e : ErrRecord) : (s.setErr e).cmpFlag = s.cmpFlag := rfl
@[simp] theorem setErr_stack (e : ErrRecord) : (s.setErr e).stack = s.stack := rfl
@[simp] theorem setErr_mem (e : ErrRecord) : (s.setErr e).mem = s.mem := rfl
@[simp] theorem setErr_memDraw (e : ErrRecord) : (s.setErr e).memDraw = s.memDraw := rfl
@[simp] theorem setErr_cfgMemSize (e : ErrRecord) : (s.setErr e).cfgMemSize = s.cfgMemSize := rfl
@[simp] theorem setErr_prog (e : ErrRecord) : (s.setErr e).prog = s.prog := rfl
@[simp] theorem setErr_engineState (e : ErrRecord) : (s.setErr e).engineState = s.engineState := rfl
@[simp] theorem setErr_err (e : ErrRecord) : (s.setErr e).err = e := rfl
@[simp] theorem setErr_lastInsn (e : ErrRecord) : (s.setErr e).lastInsn = s.lastInsn := rfl
@[simp] theorem setErr_lastValid (e : ErrRecord) : (s.setErr e).lastValid = s.lastValid := rfl
@[simp] theorem setErr_execCount (e : ErrRecord) : (s.setErr e).execCount = s.execCount := rfl
@[simp] theorem setErr_icache (e : ErrRecord) : (s.setErr e).icache = s.icache := rfl
@[simp] theorem setErr_cacheDraw (e : ErrRecord) : (s.setErr e).cacheDraw = s.cacheDraw := rfl
@[simp] theorem setErr_pending (e : ErrRecord) : (s.setErr e).pending = s.pending := rfl
@[simp] theorem setErr_response (e : ErrRecord) : (s.setErr e).response = s.response := rfl
@[simp] theorem setErr_events (e : ErrRecord) : (s.setErr e).events = s.events := rfl

/-! ### clearErr -/

@[simp] theorem clearErr_params : s.clearErr.params = s.params := rfl
@[simp] theorem clearErr_live : s.clearErr.live = s.live := rfl
@[simp] theorem clearErr_regs : s.clearErr.regs = s.regs := rfl
@[simp] theorem clearErr_pc : s.clearErr.pc = s.pc := rfl
@[simp] theorem clearErr_cmpFlag : s.clearErr.cmpFlag = s.cmpFlag := rfl
@[simp] theorem clearErr_stack : s.clearErr.stack = s.stack := rfl
@[simp] theorem clearErr_mem : s.clearErr.mem = s.mem := rfl
@[simp] theorem clearErr_memDraw : s.clearErr.memDraw = s.memDraw := rfl
@[simp] theorem clearErr_cfgMemSize : s.clearErr.cfgMemSize = s.cfgMemSize := rfl
@[simp] theorem clearErr_prog : s.clearErr.prog = s.prog := rfl
@[simp] theorem clearErr_engineState : s.clearErr.engineState = s.engineState := rfl
@[simp] theorem clearErr_err : s.clearErr.err = ErrRecord.clear := rfl
@[simp] theorem clearErr_lastInsn : s.clearErr.lastInsn = s.lastInsn := rfl
@[simp] theorem clearErr_lastValid : s.clearErr.lastValid = s.lastValid := rfl
@[simp] theorem clearErr_execCount : s.clearErr.execCount = s.execCount := rfl
@[simp] theorem clearErr_icache : s.clearErr.icache = s.icache := rfl
@[simp] theorem clearErr_cacheDraw : s.clearErr.cacheDraw = s.cacheDraw := rfl
@[simp] theorem clearErr_pending : s.clearErr.pending = s.pending := rfl
@[simp] theorem clearErr_response : s.clearErr.response = s.response := rfl
@[simp] theorem clearErr_events : s.clearErr.events = s.events := rfl

/-! ### respond -/

@[simp] theorem respond_params (r : Response) : (s.respond r).params = s.params := rfl
@[simp] theorem respond_live (r : Response) : (s.respond r).live = s.live := rfl
@[simp] theorem respond_regs (r : Response) : (s.respond r).regs = s.regs := rfl
@[simp] theorem respond_pc (r : Response) : (s.respond r).pc = s.pc := rfl
@[simp] theorem respond_cmpFlag (r : Response) : (s.respond r).cmpFlag = s.cmpFlag := rfl
@[simp] theorem respond_stack (r : Response) : (s.respond r).stack = s.stack := rfl
@[simp] theorem respond_mem (r : Response) : (s.respond r).mem = s.mem := rfl
@[simp] theorem respond_memDraw (r : Response) : (s.respond r).memDraw = s.memDraw := rfl
@[simp] theorem respond_cfgMemSize (r : Response) : (s.respond r).cfgMemSize = s.cfgMemSize := rfl
@[simp] theorem respond_prog (r : Response) : (s.respond r).prog = s.prog := rfl
@[simp] theorem respond_engineState (r : Response) : (s.respond r).engineState = s.engineState := rfl
@[simp] theorem respond_err (r : Response) : (s.respond r).err = s.err := rfl
@[simp] theorem respond_lastInsn (r : Response) : (s.respond r).lastInsn = s.lastInsn := rfl
@[simp] theorem respond_lastValid (r : Response) : (s.respond r).lastValid = s.lastValid := rfl
@[simp] theorem respond_execCount (r : Response) : (s.respond r).execCount = s.execCount := rfl
@[simp] theorem respond_icache (r : Response) : (s.respond r).icache = s.icache := rfl
@[simp] theorem respond_cacheDraw (r : Response) : (s.respond r).cacheDraw = s.cacheDraw := rfl
@[simp] theorem respond_pending (r : Response) : (s.respond r).pending = s.pending := rfl
@[simp] theorem respond_response (r : Response) : (s.respond r).response = some r := rfl
@[simp] theorem respond_events (r : Response) : (s.respond r).events = s.events := rfl

/-! ### reject -/

@[simp] theorem reject_params (c : Cause) : (s.reject c).params = s.params := rfl
@[simp] theorem reject_live (c : Cause) : (s.reject c).live = s.live := rfl
@[simp] theorem reject_regs (c : Cause) : (s.reject c).regs = s.regs := rfl
@[simp] theorem reject_pc (c : Cause) : (s.reject c).pc = s.pc := rfl
@[simp] theorem reject_cmpFlag (c : Cause) : (s.reject c).cmpFlag = s.cmpFlag := rfl
@[simp] theorem reject_stack (c : Cause) : (s.reject c).stack = s.stack := rfl
@[simp] theorem reject_mem (c : Cause) : (s.reject c).mem = s.mem := rfl
@[simp] theorem reject_memDraw (c : Cause) : (s.reject c).memDraw = s.memDraw := rfl
@[simp] theorem reject_cfgMemSize (c : Cause) : (s.reject c).cfgMemSize = s.cfgMemSize := rfl
@[simp] theorem reject_prog (c : Cause) : (s.reject c).prog = s.prog := rfl
@[simp] theorem reject_engineState (c : Cause) : (s.reject c).engineState = s.engineState := rfl
@[simp] theorem reject_err (c : Cause) : (s.reject c).err = s.err := rfl
@[simp] theorem reject_lastInsn (c : Cause) : (s.reject c).lastInsn = s.lastInsn := rfl
@[simp] theorem reject_lastValid (c : Cause) : (s.reject c).lastValid = s.lastValid := rfl
@[simp] theorem reject_execCount (c : Cause) : (s.reject c).execCount = s.execCount := rfl
@[simp] theorem reject_icache (c : Cause) : (s.reject c).icache = s.icache := rfl
@[simp] theorem reject_cacheDraw (c : Cause) : (s.reject c).cacheDraw = s.cacheDraw := rfl
@[simp] theorem reject_pending (c : Cause) : (s.reject c).pending = s.pending := rfl
@[simp] theorem reject_response (c : Cause) : (s.reject c).response = some c.response := rfl
@[simp] theorem reject_events (c : Cause) : (s.reject c).events = s.events := rfl

/-! ### setLastInsn -/

@[simp] theorem setLastInsn_params (r : Record) : (s.setLastInsn r).params = s.params := rfl
@[simp] theorem setLastInsn_live (r : Record) : (s.setLastInsn r).live = s.live := rfl
@[simp] theorem setLastInsn_regs (r : Record) : (s.setLastInsn r).regs = s.regs := rfl
@[simp] theorem setLastInsn_pc (r : Record) : (s.setLastInsn r).pc = s.pc := rfl
@[simp] theorem setLastInsn_cmpFlag (r : Record) : (s.setLastInsn r).cmpFlag = s.cmpFlag := rfl
@[simp] theorem setLastInsn_stack (r : Record) : (s.setLastInsn r).stack = s.stack := rfl
@[simp] theorem setLastInsn_mem (r : Record) : (s.setLastInsn r).mem = s.mem := rfl
@[simp] theorem setLastInsn_memDraw (r : Record) : (s.setLastInsn r).memDraw = s.memDraw := rfl
@[simp] theorem setLastInsn_cfgMemSize (r : Record) : (s.setLastInsn r).cfgMemSize = s.cfgMemSize := rfl
@[simp] theorem setLastInsn_prog (r : Record) : (s.setLastInsn r).prog = s.prog := rfl
@[simp] theorem setLastInsn_engineState (r : Record) : (s.setLastInsn r).engineState = s.engineState := rfl
@[simp] theorem setLastInsn_err (r : Record) : (s.setLastInsn r).err = s.err := rfl
@[simp] theorem setLastInsn_lastInsn (r : Record) : (s.setLastInsn r).lastInsn = r := rfl
@[simp] theorem setLastInsn_lastValid (r : Record) : (s.setLastInsn r).lastValid = true := rfl
@[simp] theorem setLastInsn_execCount (r : Record) : (s.setLastInsn r).execCount = s.execCount := rfl
@[simp] theorem setLastInsn_icache (r : Record) : (s.setLastInsn r).icache = s.icache := rfl
@[simp] theorem setLastInsn_cacheDraw (r : Record) : (s.setLastInsn r).cacheDraw = s.cacheDraw := rfl
@[simp] theorem setLastInsn_pending (r : Record) : (s.setLastInsn r).pending = s.pending := rfl
@[simp] theorem setLastInsn_response (r : Record) : (s.setLastInsn r).response = s.response := rfl
@[simp] theorem setLastInsn_events (r : Record) : (s.setLastInsn r).events = s.events := rfl

/-! ### emit -/

@[simp] theorem emit_params (e : Event) : (s.emit e).params = s.params := rfl
@[simp] theorem emit_live (e : Event) : (s.emit e).live = s.live := rfl
@[simp] theorem emit_regs (e : Event) : (s.emit e).regs = s.regs := rfl
@[simp] theorem emit_pc (e : Event) : (s.emit e).pc = s.pc := rfl
@[simp] theorem emit_cmpFlag (e : Event) : (s.emit e).cmpFlag = s.cmpFlag := rfl
@[simp] theorem emit_stack (e : Event) : (s.emit e).stack = s.stack := rfl
@[simp] theorem emit_mem (e : Event) : (s.emit e).mem = s.mem := rfl
@[simp] theorem emit_memDraw (e : Event) : (s.emit e).memDraw = s.memDraw := rfl
@[simp] theorem emit_cfgMemSize (e : Event) : (s.emit e).cfgMemSize = s.cfgMemSize := rfl
@[simp] theorem emit_prog (e : Event) : (s.emit e).prog = s.prog := rfl
@[simp] theorem emit_engineState (e : Event) : (s.emit e).engineState = s.engineState := rfl
@[simp] theorem emit_err (e : Event) : (s.emit e).err = s.err := rfl
@[simp] theorem emit_lastInsn (e : Event) : (s.emit e).lastInsn = s.lastInsn := rfl
@[simp] theorem emit_lastValid (e : Event) : (s.emit e).lastValid = s.lastValid := rfl
@[simp] theorem emit_execCount (e : Event) : (s.emit e).execCount = s.execCount := rfl
@[simp] theorem emit_icache (e : Event) : (s.emit e).icache = s.icache := rfl
@[simp] theorem emit_cacheDraw (e : Event) : (s.emit e).cacheDraw = s.cacheDraw := rfl
@[simp] theorem emit_pending (e : Event) : (s.emit e).pending = s.pending := rfl
@[simp] theorem emit_response (e : Event) : (s.emit e).response = s.response := rfl
@[simp] theorem emit_events (e : Event) : (s.emit e).events = s.events ++ [e] := rfl

/-! ### clearEvents -/

@[simp] theorem clearEvents_params : s.clearEvents.params = s.params := rfl
@[simp] theorem clearEvents_live : s.clearEvents.live = s.live := rfl
@[simp] theorem clearEvents_regs : s.clearEvents.regs = s.regs := rfl
@[simp] theorem clearEvents_pc : s.clearEvents.pc = s.pc := rfl
@[simp] theorem clearEvents_cmpFlag : s.clearEvents.cmpFlag = s.cmpFlag := rfl
@[simp] theorem clearEvents_stack : s.clearEvents.stack = s.stack := rfl
@[simp] theorem clearEvents_mem : s.clearEvents.mem = s.mem := rfl
@[simp] theorem clearEvents_memDraw : s.clearEvents.memDraw = s.memDraw := rfl
@[simp] theorem clearEvents_cfgMemSize : s.clearEvents.cfgMemSize = s.cfgMemSize := rfl
@[simp] theorem clearEvents_prog : s.clearEvents.prog = s.prog := rfl
@[simp] theorem clearEvents_engineState : s.clearEvents.engineState = s.engineState := rfl
@[simp] theorem clearEvents_err : s.clearEvents.err = s.err := rfl
@[simp] theorem clearEvents_lastInsn : s.clearEvents.lastInsn = s.lastInsn := rfl
@[simp] theorem clearEvents_lastValid : s.clearEvents.lastValid = s.lastValid := rfl
@[simp] theorem clearEvents_execCount : s.clearEvents.execCount = s.execCount := rfl
@[simp] theorem clearEvents_icache : s.clearEvents.icache = s.icache := rfl
@[simp] theorem clearEvents_cacheDraw : s.clearEvents.cacheDraw = s.cacheDraw := rfl
@[simp] theorem clearEvents_pending : s.clearEvents.pending = s.pending := rfl
@[simp] theorem clearEvents_response : s.clearEvents.response = s.response := rfl
@[simp] theorem clearEvents_events : s.clearEvents.events = [] := rfl

/-! ### pushWord -/

@[simp] theorem pushWord_params (v : Word) : (s.pushWord v).params = s.params := rfl
@[simp] theorem pushWord_live (v : Word) : (s.pushWord v).live = s.live := rfl
@[simp] theorem pushWord_regs (v : Word) : (s.pushWord v).regs = s.regs := rfl
@[simp] theorem pushWord_pc (v : Word) : (s.pushWord v).pc = s.pc := rfl
@[simp] theorem pushWord_cmpFlag (v : Word) : (s.pushWord v).cmpFlag = s.cmpFlag := rfl
@[simp] theorem pushWord_stack (v : Word) : (s.pushWord v).stack = v :: s.stack := rfl
@[simp] theorem pushWord_mem (v : Word) : (s.pushWord v).mem = s.mem := rfl
@[simp] theorem pushWord_memDraw (v : Word) : (s.pushWord v).memDraw = s.memDraw := rfl
@[simp] theorem pushWord_cfgMemSize (v : Word) : (s.pushWord v).cfgMemSize = s.cfgMemSize := rfl
@[simp] theorem pushWord_prog (v : Word) : (s.pushWord v).prog = s.prog := rfl
@[simp] theorem pushWord_engineState (v : Word) : (s.pushWord v).engineState = s.engineState := rfl
@[simp] theorem pushWord_err (v : Word) : (s.pushWord v).err = s.err := rfl
@[simp] theorem pushWord_lastInsn (v : Word) : (s.pushWord v).lastInsn = s.lastInsn := rfl
@[simp] theorem pushWord_lastValid (v : Word) : (s.pushWord v).lastValid = s.lastValid := rfl
@[simp] theorem pushWord_execCount (v : Word) : (s.pushWord v).execCount = s.execCount := rfl
@[simp] theorem pushWord_icache (v : Word) : (s.pushWord v).icache = s.icache := rfl
@[simp] theorem pushWord_cacheDraw (v : Word) : (s.pushWord v).cacheDraw = s.cacheDraw := rfl
@[simp] theorem pushWord_pending (v : Word) : (s.pushWord v).pending = s.pending := rfl
@[simp] theorem pushWord_response (v : Word) : (s.pushWord v).response = s.response := rfl
@[simp] theorem pushWord_events (v : Word) : (s.pushWord v).events = s.events := rfl

/-! ### dropTop -/

@[simp] theorem dropTop_params : s.dropTop.params = s.params := rfl
@[simp] theorem dropTop_live : s.dropTop.live = s.live := rfl
@[simp] theorem dropTop_regs : s.dropTop.regs = s.regs := rfl
@[simp] theorem dropTop_pc : s.dropTop.pc = s.pc := rfl
@[simp] theorem dropTop_cmpFlag : s.dropTop.cmpFlag = s.cmpFlag := rfl
@[simp] theorem dropTop_stack : s.dropTop.stack = s.stack.tail := rfl
@[simp] theorem dropTop_mem : s.dropTop.mem = s.mem := rfl
@[simp] theorem dropTop_memDraw : s.dropTop.memDraw = s.memDraw := rfl
@[simp] theorem dropTop_cfgMemSize : s.dropTop.cfgMemSize = s.cfgMemSize := rfl
@[simp] theorem dropTop_prog : s.dropTop.prog = s.prog := rfl
@[simp] theorem dropTop_engineState : s.dropTop.engineState = s.engineState := rfl
@[simp] theorem dropTop_err : s.dropTop.err = s.err := rfl
@[simp] theorem dropTop_lastInsn : s.dropTop.lastInsn = s.lastInsn := rfl
@[simp] theorem dropTop_lastValid : s.dropTop.lastValid = s.lastValid := rfl
@[simp] theorem dropTop_execCount : s.dropTop.execCount = s.execCount := rfl
@[simp] theorem dropTop_icache : s.dropTop.icache = s.icache := rfl
@[simp] theorem dropTop_cacheDraw : s.dropTop.cacheDraw = s.cacheDraw := rfl
@[simp] theorem dropTop_pending : s.dropTop.pending = s.pending := rfl
@[simp] theorem dropTop_response : s.dropTop.response = s.response := rfl
@[simp] theorem dropTop_events : s.dropTop.events = s.events := rfl

/-! ### countDispatch -/

@[simp] theorem countDispatch_params : s.countDispatch.params = s.params := rfl
@[simp] theorem countDispatch_live : s.countDispatch.live = s.live := rfl
@[simp] theorem countDispatch_regs : s.countDispatch.regs = s.regs := rfl
@[simp] theorem countDispatch_pc : s.countDispatch.pc = s.pc := rfl
@[simp] theorem countDispatch_cmpFlag : s.countDispatch.cmpFlag = s.cmpFlag := rfl
@[simp] theorem countDispatch_stack : s.countDispatch.stack = s.stack := rfl
@[simp] theorem countDispatch_mem : s.countDispatch.mem = s.mem := rfl
@[simp] theorem countDispatch_memDraw : s.countDispatch.memDraw = s.memDraw := rfl
@[simp] theorem countDispatch_cfgMemSize : s.countDispatch.cfgMemSize = s.cfgMemSize := rfl
@[simp] theorem countDispatch_prog : s.countDispatch.prog = s.prog := rfl
@[simp] theorem countDispatch_engineState : s.countDispatch.engineState = s.engineState := rfl
@[simp] theorem countDispatch_err : s.countDispatch.err = s.err := rfl
@[simp] theorem countDispatch_lastInsn : s.countDispatch.lastInsn = s.lastInsn := rfl
@[simp] theorem countDispatch_lastValid : s.countDispatch.lastValid = s.lastValid := rfl
@[simp] theorem countDispatch_execCount : s.countDispatch.execCount = s.execCount.set s.pc.toNat (satSucc (s.count s.pc.toNat)) := rfl
@[simp] theorem countDispatch_icache : s.countDispatch.icache = s.icache := rfl
@[simp] theorem countDispatch_cacheDraw : s.countDispatch.cacheDraw = s.cacheDraw := rfl
@[simp] theorem countDispatch_pending : s.countDispatch.pending = s.pending := rfl
@[simp] theorem countDispatch_response : s.countDispatch.response = s.response := rfl
@[simp] theorem countDispatch_events : s.countDispatch.events = s.events := rfl

/-! ### emitEnd -/

@[simp] theorem emitEnd_params (o : EndOutcome) (t : Word) : (s.emitEnd o t).params = s.params := rfl
@[simp] theorem emitEnd_live (o : EndOutcome) (t : Word) : (s.emitEnd o t).live = s.live := rfl
@[simp] theorem emitEnd_regs (o : EndOutcome) (t : Word) : (s.emitEnd o t).regs = s.regs := rfl
@[simp] theorem emitEnd_pc (o : EndOutcome) (t : Word) : (s.emitEnd o t).pc = s.pc := rfl
@[simp] theorem emitEnd_cmpFlag (o : EndOutcome) (t : Word) : (s.emitEnd o t).cmpFlag = s.cmpFlag := rfl
@[simp] theorem emitEnd_stack (o : EndOutcome) (t : Word) : (s.emitEnd o t).stack = s.stack := rfl
@[simp] theorem emitEnd_mem (o : EndOutcome) (t : Word) : (s.emitEnd o t).mem = s.mem := rfl
@[simp] theorem emitEnd_memDraw (o : EndOutcome) (t : Word) : (s.emitEnd o t).memDraw = s.memDraw := rfl
@[simp] theorem emitEnd_cfgMemSize (o : EndOutcome) (t : Word) : (s.emitEnd o t).cfgMemSize = s.cfgMemSize := rfl
@[simp] theorem emitEnd_prog (o : EndOutcome) (t : Word) : (s.emitEnd o t).prog = s.prog := rfl
@[simp] theorem emitEnd_engineState (o : EndOutcome) (t : Word) : (s.emitEnd o t).engineState = s.engineState := rfl
@[simp] theorem emitEnd_err (o : EndOutcome) (t : Word) : (s.emitEnd o t).err = s.err := rfl
@[simp] theorem emitEnd_lastInsn (o : EndOutcome) (t : Word) : (s.emitEnd o t).lastInsn = s.lastInsn := rfl
@[simp] theorem emitEnd_lastValid (o : EndOutcome) (t : Word) : (s.emitEnd o t).lastValid = s.lastValid := rfl
@[simp] theorem emitEnd_execCount (o : EndOutcome) (t : Word) : (s.emitEnd o t).execCount = s.execCount := rfl
@[simp] theorem emitEnd_icache (o : EndOutcome) (t : Word) : (s.emitEnd o t).icache = s.icache := rfl
@[simp] theorem emitEnd_cacheDraw (o : EndOutcome) (t : Word) : (s.emitEnd o t).cacheDraw = s.cacheDraw := rfl
@[simp] theorem emitEnd_pending (o : EndOutcome) (t : Word) : (s.emitEnd o t).pending = s.pending := rfl
@[simp] theorem emitEnd_response (o : EndOutcome) (t : Word) : (s.emitEnd o t).response = s.response := rfl
@[simp] theorem emitEnd_events (o : EndOutcome) (t : Word) : (s.emitEnd o t).events = s.events ++ [.endInsn s.pc s.lastInsn o t s.view] := rfl

/-! ### fetched -/

@[simp] theorem fetched_params (r : Record) : (s.fetched r).params = s.params := rfl
@[simp] theorem fetched_live (r : Record) : (s.fetched r).live = s.live := rfl
@[simp] theorem fetched_regs (r : Record) : (s.fetched r).regs = s.regs := rfl
@[simp] theorem fetched_pc (r : Record) : (s.fetched r).pc = s.pc := rfl
@[simp] theorem fetched_cmpFlag (r : Record) : (s.fetched r).cmpFlag = s.cmpFlag := rfl
@[simp] theorem fetched_stack (r : Record) : (s.fetched r).stack = s.stack := rfl
@[simp] theorem fetched_mem (r : Record) : (s.fetched r).mem = s.mem := rfl
@[simp] theorem fetched_memDraw (r : Record) : (s.fetched r).memDraw = s.memDraw := rfl
@[simp] theorem fetched_cfgMemSize (r : Record) : (s.fetched r).cfgMemSize = s.cfgMemSize := rfl
@[simp] theorem fetched_prog (r : Record) : (s.fetched r).prog = s.prog := rfl
@[simp] theorem fetched_engineState (r : Record) : (s.fetched r).engineState = s.engineState := rfl
@[simp] theorem fetched_err (r : Record) : (s.fetched r).err = s.err := rfl
@[simp] theorem fetched_lastInsn (r : Record) : (s.fetched r).lastInsn = r := rfl
@[simp] theorem fetched_lastValid (r : Record) : (s.fetched r).lastValid = true := rfl
@[simp] theorem fetched_execCount (r : Record) : (s.fetched r).execCount = s.execCount := rfl
@[simp] theorem fetched_icache (r : Record) : (s.fetched r).icache = s.icache := rfl
@[simp] theorem fetched_cacheDraw (r : Record) : (s.fetched r).cacheDraw = s.cacheDraw := rfl
@[simp] theorem fetched_pending (r : Record) : (s.fetched r).pending = s.pending := rfl
@[simp] theorem fetched_response (r : Record) : (s.fetched r).response = s.response := rfl
@[simp] theorem fetched_events (r : Record) : (s.fetched r).events = s.events ++ [.beginInsn s.pc r s.view] := rfl

/-! ### runOff -/

@[simp] theorem runOff_params : s.runOff.params = s.params := rfl
@[simp] theorem runOff_live : s.runOff.live = s.live := rfl
@[simp] theorem runOff_regs : s.runOff.regs = s.regs := rfl
@[simp] theorem runOff_pc : s.runOff.pc = s.pc := rfl
@[simp] theorem runOff_cmpFlag : s.runOff.cmpFlag = s.cmpFlag := rfl
@[simp] theorem runOff_stack : s.runOff.stack = s.stack := rfl
@[simp] theorem runOff_mem : s.runOff.mem = s.mem := rfl
@[simp] theorem runOff_memDraw : s.runOff.memDraw = s.memDraw := rfl
@[simp] theorem runOff_cfgMemSize : s.runOff.cfgMemSize = s.cfgMemSize := rfl
@[simp] theorem runOff_prog : s.runOff.prog = s.prog := rfl
@[simp] theorem runOff_engineState : s.runOff.engineState = .halted := rfl
@[simp] theorem runOff_err : s.runOff.err = s.err := rfl
@[simp] theorem runOff_lastInsn : s.runOff.lastInsn = s.lastInsn := rfl
@[simp] theorem runOff_lastValid : s.runOff.lastValid = s.lastValid := rfl
@[simp] theorem runOff_execCount : s.runOff.execCount = s.execCount := rfl
@[simp] theorem runOff_icache : s.runOff.icache = s.icache := rfl
@[simp] theorem runOff_cacheDraw : s.runOff.cacheDraw = s.cacheDraw := rfl
@[simp] theorem runOff_pending : s.runOff.pending = s.pending := rfl
@[simp] theorem runOff_response : s.runOff.response = some .done := rfl
@[simp] theorem runOff_events : s.runOff.events = s.events := rfl

/-! ### loadRecords -/

@[simp] theorem loadRecords_params (rs : List Record) : (s.loadRecords rs).params = s.params := rfl
@[simp] theorem loadRecords_live (rs : List Record) : (s.loadRecords rs).live = s.live := rfl
@[simp] theorem loadRecords_regs (rs : List Record) : (s.loadRecords rs).regs = s.regs := rfl
@[simp] theorem loadRecords_pc (rs : List Record) : (s.loadRecords rs).pc = 0 := rfl
@[simp] theorem loadRecords_cmpFlag (rs : List Record) : (s.loadRecords rs).cmpFlag = s.cmpFlag := rfl
@[simp] theorem loadRecords_stack (rs : List Record) : (s.loadRecords rs).stack = s.stack := rfl
@[simp] theorem loadRecords_mem (rs : List Record) : (s.loadRecords rs).mem = s.mem := rfl
@[simp] theorem loadRecords_memDraw (rs : List Record) : (s.loadRecords rs).memDraw = s.memDraw := rfl
@[simp] theorem loadRecords_cfgMemSize (rs : List Record) : (s.loadRecords rs).cfgMemSize = s.cfgMemSize := rfl
@[simp] theorem loadRecords_prog (rs : List Record) : (s.loadRecords rs).prog = rs := rfl
@[simp] theorem loadRecords_engineState (rs : List Record) : (s.loadRecords rs).engineState = .loaded := rfl
@[simp] theorem loadRecords_err (rs : List Record) : (s.loadRecords rs).err = ErrRecord.clear := rfl
@[simp] theorem loadRecords_lastInsn (rs : List Record) : (s.loadRecords rs).lastInsn = s.lastInsn := rfl
@[simp] theorem loadRecords_lastValid (rs : List Record) : (s.loadRecords rs).lastValid = s.lastValid := rfl
@[simp] theorem loadRecords_execCount (rs : List Record) : (s.loadRecords rs).execCount = List.replicate rs.length 0 := rfl
@[simp] theorem loadRecords_icache (rs : List Record) : (s.loadRecords rs).icache = [] := rfl
@[simp] theorem loadRecords_cacheDraw (rs : List Record) : (s.loadRecords rs).cacheDraw = s.cacheDraw := rfl
@[simp] theorem loadRecords_pending (rs : List Record) : (s.loadRecords rs).pending = s.pending := rfl
@[simp] theorem loadRecords_response (rs : List Record) : (s.loadRecords rs).response = s.response := rfl
@[simp] theorem loadRecords_events (rs : List Record) : (s.loadRecords rs).events = s.events := rfl

end Sys2Proof.Machine
end

