-- ==== Sys2Proof/Laws/Ops.lean ====
section
/-! SUPPORT. One lemma for each shared operation, which says everything it does: cache maintenance, the three ways a
dispatched instruction ends, and the operand checks. -/

namespace Sys2Proof.Machine

/-! ### What the readers see of an update -/

theorem readReg_writeReg (s : State) (i j : Fin 16) (v : Word) :
    (s.writeReg i v).readReg j = if j = i then v else s.readReg j := by
  simp only [State.readReg, writeReg_regs, Fin.getElem_fin]
  rw [Vector.getElem_set]
  by_cases h : j = i
  · subst h; simp
  · have : ¬ i.val = j.val := fun h' => h (Fin.ext h'.symm)
    simp [h, this]

theorem count_eq (s : State) (p : Nat) : s.count p = s.execCount.getD p 0 := rfl

theorem readByte_eq (s : State) (a : Nat) : s.readByte a = s.mem.read s.memDraw a := rfl

theorem toNat_satSucc (c : BitVec 32) : (satSucc c).toNat = min (c.toNat + 1) (2 ^ 32 - 1) := by
  have hc := c.isLt
  unfold satSucc
  split
  · next h => subst h; simp
  · next h =>
    have : c.toNat ≠ 2 ^ 32 - 1 := fun h' => h (BitVec.eq_of_toNat_eq (by simpa using h'))
    rw [BitVec.toNat_add, Nat.mod_eq_of_lt]
    · simp; omega
    · simp; omega

/-! ### Cache maintenance -/

/-- Maintenance writes nothing but the cache and its count of free choices (R157). -/
theorem maintain_eq (s : State) :
    s.maintain = (s.setICache s.maintain.icache).setCacheDraw s.maintain.cacheDraw := by
  unfold State.maintain
  split
  · rfl
  · dsimp only
    split <;> rfl

section
variable (s : State)

@[simp] theorem maintain_params : s.maintain.params = s.params := by
  rw [maintain_eq]; rfl

@[simp] theorem maintain_live : s.maintain.live = s.live := by
  rw [maintain_eq]; rfl

@[simp] theorem maintain_regs : s.maintain.regs = s.regs := by
  rw [maintain_eq]; rfl

@[simp] theorem maintain_pc : s.maintain.pc = s.pc := by
  rw [maintain_eq]; rfl

@[simp] theorem maintain_cmpFlag : s.maintain.cmpFlag = s.cmpFlag := by
  rw [maintain_eq]; rfl

@[simp] theorem maintain_stack : s.maintain.stack = s.stack := by
  rw [maintain_eq]; rfl

@[simp] theorem maintain_mem : s.maintain.mem = s.mem := by
  rw [maintain_eq]; rfl

@[simp] theorem maintain_memDraw : s.maintain.memDraw = s.memDraw := by
  rw [maintain_eq]; rfl

@[simp] theorem maintain_cfgMemSize : s.maintain.cfgMemSize = s.cfgMemSize := by
  rw [maintain_eq]; rfl

@[simp] theorem maintain_prog : s.maintain.prog = s.prog := by
  rw [maintain_eq]; rfl

@[simp] theorem maintain_engineState : s.maintain.engineState = s.engineState := by
  rw [maintain_eq]; rfl

@[simp] theorem maintain_err : s.maintain.err = s.err := by
  rw [maintain_eq]; rfl

@[simp] theorem maintain_lastInsn : s.maintain.lastInsn = s.lastInsn := by
  rw [maintain_eq]; rfl

@[simp] theorem maintain_lastValid : s.maintain.lastValid = s.lastValid := by
  rw [maintain_eq]; rfl

@[simp] theorem maintain_execCount : s.maintain.execCount = s.execCount := by
  rw [maintain_eq]; rfl

@[simp] theorem maintain_pending : s.maintain.pending = s.pending := by
  rw [maintain_eq]; rfl

@[simp] theorem maintain_response : s.maintain.response = s.response := by
  rw [maintain_eq]; rfl

@[simp] theorem maintain_events : s.maintain.events = s.events := by
  rw [maintain_eq]; rfl

end

theorem ICache.mem_insert {p : Nat} {r : Record} {c : ICache} {e : Nat × Record} :
    e ∈ ICache.insert p r c ↔ e = (p, r) ∨ e ∈ c := by
  induction c with
  | nil => simp [ICache.insert]
  | cons d c ih =>
    unfold ICache.insert
    split
    · simp
    · simp only [List.mem_cons, ih]
      tauto

theorem ICache.insert_sorted {p : Nat} {r : Record} {c : ICache} (h : c.Pairwise fun a b => a.1 < b.1)
    (hp : ∀ e ∈ c, e.1 ≠ p) : (ICache.insert p r c).Pairwise fun a b => a.1 < b.1 := by
  induction c with
  | nil => simp [ICache.insert]
  | cons d c ih =>
    obtain ⟨hd, hc⟩ := List.pairwise_cons.1 h
    unfold ICache.insert
    split
    · next hlt =>
      refine List.pairwise_cons.2 ⟨fun e he => ?_, h⟩
      rcases List.mem_cons.1 he with rfl | he
      · exact hlt
      · exact Nat.lt_trans hlt (hd e he)
    · have hne := hp d List.mem_cons_self
      refine List.pairwise_cons.2 ⟨fun e he => ?_, ih hc fun e he => hp e (List.mem_cons_of_mem _ he)⟩
      rcases ICache.mem_insert.1 he with rfl | he
      · show d.1 < p
        omega
      · exact hd e he

theorem ICache.lookup_none {p : Nat} {c : ICache} : c.lookup p = none ↔ ∀ e ∈ c, e.1 ≠ p := by
  induction c with
  | nil => simp [ICache.lookup]
  | cons d c ih =>
    unfold ICache.lookup
    split
    · next h => simp [h]
    · next h => simp [h, ih]

theorem ICache.mem_of_lookup {p : Nat} {r : Record} {c : ICache} (h : c.lookup p = some r) : (p, r) ∈ c := by
  induction c with
  | nil => simp [ICache.lookup] at h
  | cons d c ih =>
    unfold ICache.lookup at h
    split at h
    · next hd =>
      cases h
      rw [← hd]
      exact List.mem_cons_self
    · exact List.mem_cons_of_mem _ (ih h)

/-- The fold of `icacheWith`, from any cache. -/
theorem mem_icacheFold (s : State) (e : Nat × Record) (ps : List Nat) :
    ∀ c : ICache,
      e ∈ ps.foldl (fun c p => match s.prog[p]? with
        | some r => ICache.insert p r c
        | none => c) c ↔ e ∈ c ∨ (e.1 ∈ ps ∧ s.prog[e.1]? = some e.2) := by
  induction ps with
  | nil => intro c; simp
  | cons p ps ih =>
    intro c
    rw [List.foldl_cons, ih]
    obtain ⟨q, r⟩ := e
    cases hp : s.prog[p]? with
    | none =>
      simp only [List.mem_cons]
      constructor
      · rintro (h | ⟨h, h'⟩)
        · exact .inl h
        · exact .inr ⟨.inr h, h'⟩
      · rintro (h | ⟨rfl | h, h'⟩)
        · exact .inl h
        · rw [hp] at h'; cases h'
        · exact .inr ⟨h, h'⟩
    | some r' =>
      simp only [ICache.mem_insert, List.mem_cons, Prod.mk.injEq]
      constructor
      · rintro ((⟨rfl, rfl⟩ | h) | ⟨h, h'⟩)
        · exact .inr ⟨.inl rfl, hp⟩
        · exact .inl h
        · exact .inr ⟨.inr h, h'⟩
      · rintro (h | ⟨rfl | h, h'⟩)
        · exact .inl (.inr h)
        · rw [hp] at h'; cases h'; exact .inl (.inl ⟨rfl, rfl⟩)
        · exact .inr ⟨h, h'⟩

/-- What `icacheWith` holds: the old pairs, and `(p, prog[p])` for the given indices. -/
theorem mem_icacheWith (s : State) (ps : List Nat) (e : Nat × Record) :
    e ∈ s.icacheWith ps ↔ e ∈ s.icache ∨ (e.1 ∈ ps ∧ s.prog[e.1]? = some e.2) :=
  mem_icacheFold s e ps s.icache

theorem icacheFold_sorted (s : State) (ps : List Nat) :
    ∀ c : ICache, (c.Pairwise fun a b => a.1 < b.1) → (∀ e ∈ c, e.1 ∉ ps) → ps.Nodup →
      (ps.foldl (fun c p => match s.prog[p]? with
        | some r => ICache.insert p r c
        | none => c) c).Pairwise fun a b => a.1 < b.1 := by
  induction ps with
  | nil => intro c h _ _; exact h
  | cons p ps ih =>
    intro c hc hfresh hnd
    obtain ⟨hp, hnd⟩ := List.nodup_cons.1 hnd
    rw [List.foldl_cons]
    cases hr : s.prog[p]? with
    | none =>
      exact ih c hc (fun e he h => hfresh e he (List.mem_cons_of_mem _ h)) hnd
    | some r =>
      refine ih _ (ICache.insert_sorted hc fun e he h => hfresh e he (h ▸ List.mem_cons_self)) ?_ hnd
      intro e he h
      rcases ICache.mem_insert.1 he with rfl | he
      · exact hp h
      · exact hfresh e he (List.mem_cons_of_mem _ h)

theorem ICache.length_insert (p : Nat) (r : Record) (c : ICache) : (ICache.insert p r c).length = c.length + 1 := by
  induction c with
  | nil => rfl
  | cons d c ih => unfold ICache.insert; split <;> simp [ih]

theorem icacheFold_length (s : State) (ps : List Nat) :
    ∀ c : ICache,
      (ps.foldl (fun c p => match s.prog[p]? with
        | some r => ICache.insert p r c
        | none => c) c).length ≤ c.length + ps.length := by
  induction ps with
  | nil => intro c; simp
  | cons p ps ih =>
    intro c
    rw [List.foldl_cons]
    refine Nat.le_trans (ih _) ?_
    cases s.prog[p]? with
    | none => simp
    | some r => simp only [ICache.length_insert, List.length_cons]; omega

theorem icacheWith_length (s : State) (ps : List Nat) : (s.icacheWith ps).length ≤ s.icache.length + ps.length :=
  icacheFold_length s ps s.icache

/-- The candidates: counted more than 1000 times, in the program, not in the cache. -/
theorem mem_hotCandidates (s : State) (p : Nat) :
    p ∈ s.hotCandidates ↔ p < s.progLen ∧ 1000 < (s.count p).toNat ∧ ∀ e ∈ s.icache, e.1 ≠ p := by
  unfold State.hotCandidates
  rw [List.mem_filter, List.mem_range, Bool.and_eq_true, decide_eq_true_iff, Option.isNone_iff_eq_none, ICache.lookup_none]
  rfl

theorem hotCandidates_nodup (s : State) : s.hotCandidates.Nodup := List.nodup_range.filter _

/-- Every pair of the cache after maintenance was there before, or is a candidate's pair `(p, prog[p])`. -/
theorem mem_maintain_icache {s : State} {e : Nat × Record} (h : e ∈ s.maintain.icache) :
    e ∈ s.icache ∨ (e.1 ∈ s.hotCandidates ∧ s.prog[e.1]? = some e.2) := by
  unfold State.maintain at h
  split at h
  · exact .inl h
  · next p ps hps =>
    rw [hps]
    dsimp only at h
    split at h
    · exact (mem_icacheWith s _ e).1 h
    · exact (mem_icacheWith s _ e).1 (List.mem_filter.1 h).1

/-- Where every candidate fits, the cache after maintenance is the old one and every candidate's pair, and no free choice is
made. -/
theorem maintain_all_fit {s : State} (h : (s.icacheWith s.hotCandidates).length ≤ s.params.icacheEntries) :
    s.maintain = s.setICache (s.icacheWith s.hotCandidates) := by
  unfold State.maintain
  split
  · next hps => rw [hps]; rfl
  · next p ps hps =>
    rw [hps] at h
    dsimp only
    rw [if_pos h, hps]

theorem maintain_sorted {s : State} (h : s.icache.Pairwise fun a b => a.1 < b.1) :
    s.maintain.icache.Pairwise fun a b => a.1 < b.1 := by
  have hall : (s.icacheWith s.hotCandidates).Pairwise fun a b => a.1 < b.1 :=
    icacheFold_sorted s _ _ h (fun e he hm => ((mem_hotCandidates s e.1).1 hm).2.2 e he rfl) (hotCandidates_nodup s)
  unfold State.maintain
  split
  · exact h
  · next p ps hps =>
    rw [hps] at hall
    dsimp only
    split
    · exact hall
    · exact hall.filter _

theorem chosen_length (draw room : Nat) (pool : List Nat) : (chosen draw room pool).length ≤ room :=
  List.length_take_le _ _

theorem maintain_bounded {s : State} (h : s.icache.Pairwise fun a b => a.1 < b.1)
    (hb : s.icache.length ≤ s.params.icacheEntries) : s.maintain.icache.length ≤ s.params.icacheEntries := by
  have hs := maintain_sorted h
  unfold State.maintain at hs ⊢
  split
  · exact hb
  · next p ps hps =>
    simp only [hps] at hs
    dsimp only at hs ⊢
    split
    · next hfit => exact hfit
    · next hfit =>
      rw [if_neg hfit] at hs
      simp only [setCacheDraw_icache, setICache_icache] at hs ⊢
      refine Nat.le_trans ?_ (chosen_length s.cacheDraw s.params.icacheEntries
        ((s.icacheWith (p :: ps)).map fun c => c.1))
      have hnd : (((s.icacheWith (p :: ps)).filter fun c => (chosen s.cacheDraw s.params.icacheEntries
          ((s.icacheWith (p :: ps)).map fun c => c.1)).contains c.1).map fun c => c.1).Nodup :=
        List.Pairwise.map _ (fun a b hab => Nat.ne_of_lt hab) hs
      rw [← List.length_map (f := fun c : Nat × Record => c.1)]
      refine (List.subperm_of_subset hnd fun q hq => ?_).length_le
      obtain ⟨c, hc, rfl⟩ := List.mem_map.1 hq
      simpa using (List.mem_filter.1 hc).2

/-- R158: maintenance keeps the cache coherent. -/
theorem maintain_coherent {s : State} (h : s.CacheCoherent) : s.maintain.CacheCoherent := by
  intro e he
  rw [maintain_prog]
  rcases mem_maintain_icache he with he | he
  · exact h e he
  · exact he.2

/-! ### Moving on -/

section
variable (s : State) (t : Word)

@[simp] theorem moveTo_params : (s.moveTo t).params = s.params := by
  unfold State.moveTo; split <;> simp

@[simp] theorem moveTo_live : (s.moveTo t).live = s.live := by
  unfold State.moveTo; split <;> simp

@[simp] theorem moveTo_regs : (s.moveTo t).regs = s.regs := by
  unfold State.moveTo; split <;> simp

@[simp] theorem moveTo_cmpFlag : (s.moveTo t).cmpFlag = s.cmpFlag := by
  unfold State.moveTo; split <;> simp

@[simp] theorem moveTo_stack : (s.moveTo t).stack = s.stack := by
  unfold State.moveTo; split <;> simp

@[simp] theorem moveTo_mem : (s.moveTo t).mem = s.mem := by
  unfold State.moveTo; split <;> simp

@[simp] theorem moveTo_memDraw : (s.moveTo t).memDraw = s.memDraw := by
  unfold State.moveTo; split <;> simp

@[simp] theorem moveTo_cfgMemSize : (s.moveTo t).cfgMemSize = s.cfgMemSize := by
  unfold State.moveTo; split <;> simp

@[simp] theorem moveTo_prog : (s.moveTo t).prog = s.prog := by
  unfold State.moveTo; split <;> simp

@[simp] theorem moveTo_engineState : (s.moveTo t).engineState = s.engineState := by
  unfold State.moveTo; split <;> simp

@[simp] theorem moveTo_err : (s.moveTo t).err = s.err := by
  unfold State.moveTo; split <;> simp

@[simp] theorem moveTo_lastInsn : (s.moveTo t).lastInsn = s.lastInsn := by
  unfold State.moveTo; split <;> simp

@[simp] theorem moveTo_lastValid : (s.moveTo t).lastValid = s.lastValid := by
  unfold State.moveTo; split <;> simp

@[simp] theorem moveTo_execCount : (s.moveTo t).execCount = s.execCount := by
  unfold State.moveTo; split <;> simp

@[simp] theorem moveTo_pending : (s.moveTo t).pending = s.pending := by
  unfold State.moveTo; split <;> simp

@[simp] theorem moveTo_response : (s.moveTo t).response = s.response := by
  unfold State.moveTo; split <;> simp

@[simp] theorem moveTo_events : (s.moveTo t).events = s.events := by
  unfold State.moveTo; split <;> simp

@[simp] theorem moveTo_pc : (s.moveTo t).pc = t := by
  unfold State.moveTo; split <;> simp

theorem moveTo_cache (h : t.toNat % 1000 ≠ 0) :
    (s.moveTo t).icache = s.icache ∧ (s.moveTo t).cacheDraw = s.cacheDraw := by
  have h' : ¬ t.toNat % Config.hotPeriod = 0 := h
  rw [State.moveTo, if_neg h']
  exact ⟨rfl, rfl⟩

theorem moveTo_coherent {s : State} (h : s.CacheCoherent) : (s.moveTo t).CacheCoherent := by
  unfold State.moveTo
  split
  · exact maintain_coherent (s := s.setPc t) h
  · exact h

end

/-! ### How a dispatched instruction ends -/

/-- A state that differs from `s` at most in what an instruction writes itself: registers, flag, stack, data memory and
memory events. -/
structure SameRun (s u : State) : Prop where
  keeps : KeepsUnit s u
  pc : u.pc = s.pc
  engineState : u.engineState = s.engineState
  err : u.err = s.err
  response : u.response = s.response
  execCount : u.execCount = s.execCount
  icache : u.icache = s.icache
  cacheDraw : u.cacheDraw = s.cacheDraw

theorem SameRun.refl (s : State) : SameRun s s := ⟨⟨rfl, rfl, rfl, rfl, rfl, rfl, rfl, rfl⟩, rfl, rfl, rfl, rfl, rfl, rfl, rfl⟩

theorem countDispatch_counted (s : State) : s.countDispatch.execCount.length = s.execCount.length ∧
    ∀ p, (s.countDispatch.count p).toNat =
      if p = s.pc.toNat ∧ p < s.execCount.length then min ((s.count p).toNat + 1) (2 ^ 32 - 1) else (s.count p).toNat := by
  refine ⟨by simp, fun p => ?_⟩
  rw [count_eq, countDispatch_execCount]
  by_cases hp : p = s.pc.toNat
  · subst hp
    by_cases hl : s.pc.toNat < s.execCount.length
    · rw [if_pos ⟨rfl, hl⟩, ← toNat_satSucc]
      simp [List.getD_eq_getElem?_getD, hl]
    · rw [if_neg (fun h => hl h.2), List.set_eq_of_length_le (by omega)]
      rfl
  · rw [if_neg (fun h => hp h.1)]
    simp [List.getD_eq_getElem?_getD, List.getElem?_set_ne (Ne.symm hp), count_eq]

/-- What `advance` does with the state an instruction has made of `s` (R132). -/
theorem advance_completes {s u : State} (h : SameRun s u) (next : Word) (accesses : List Event)
    (he : u.events = s.events ++ accesses) :
    ∃ t, advance next u = .next t ∧ Completed s t next accesses ∧ t.regs = u.regs ∧ t.cmpFlag = u.cmpFlag ∧
      t.stack = u.stack ∧ t.mem = u.mem := by
  refine ⟨_, rfl, ?_, by simp, by simp, by simp, by simp⟩
  obtain ⟨k, hpc, heng, herr, hresp, hcnt, hic, hcd⟩ := h
  have hcount : u.count = s.count := by funext p; rw [count_eq, count_eq, hcnt]
  constructor
  · constructor <;> simp [k.params, k.live, k.memDraw, k.cfgMemSize, k.prog, k.lastInsn, k.lastValid, k.pending]
  · simp
  · simp [heng]
  · simp [herr]
  · simp [hresp]
  · obtain ⟨h1, h2⟩ := countDispatch_counted u
    refine ⟨?_, fun p => ?_⟩
    · rw [moveTo_execCount, emitEnd_execCount, h1, hcnt]
    · rw [count_eq, moveTo_execCount, emitEnd_execCount, ← count_eq, h2, hcount, hcnt, hpc]
  · intro hn
    obtain ⟨h1, h2⟩ := moveTo_cache (u.countDispatch.emitEnd .ok next) next hn
    exact ⟨by rw [h1]; simp [hic], by rw [h2]; simp [hcd]⟩
  · simp [he, hpc, k.lastInsn, State.view, endView, State.sp]

/-- What `stop` does (R132, R135). -/
theorem stop_stops (s : State) :
    ∃ t, stop s = .next t ∧ Stopped s t ∧ t.regs = s.regs ∧ t.cmpFlag = s.cmpFlag ∧ t.stack = s.stack ∧ t.mem = s.mem := by
  refine ⟨_, rfl, ?_, by simp, by simp, by simp, by simp⟩
  constructor
  · constructor <;> simp
  · simp
  · simp
  · simp
  · simp
  · obtain ⟨h1, h2⟩ := countDispatch_counted s
    refine ⟨?_, fun p => ?_⟩
    · rw [respond_execCount, setEngine_execCount, emitEnd_execCount, h1]
    · rw [count_eq, respond_execCount, setEngine_execCount, emitEnd_execCount, ← count_eq, h2]
  · simp
  · simp [State.view, endView, State.sp]

/-- What `raise` does with the state a failing instruction has made of `s` (R132, R136, R268). -/
theorem raise_fails {s u : State} (h : SameRun s u) (c : Cause) (he : u.events = s.events) :
    ∃ t, raise c u = .next t ∧ FailedWith s t c ∧ t.regs = u.regs ∧ t.cmpFlag = u.cmpFlag ∧ t.stack = u.stack ∧
      t.mem = u.mem := by
  refine ⟨_, rfl, ?_, by simp, by simp, by simp, by simp⟩
  obtain ⟨k, hpc, heng, herr, hresp, hcnt, hic, hcd⟩ := h
  constructor
  · constructor <;> simp [k.params, k.live, k.memDraw, k.cfgMemSize, k.prog, k.lastInsn, k.lastValid, k.pending]
  · simp [hpc]
  · simp
  · simp [State.errOf, opcodeField, hpc, k.lastInsn]
  · simp [Cause.response]
  · simp [hcnt]
  · simp [hic, hcd]
  · simp [he, hpc, k.lastInsn, State.view, endView, State.sp]

/-- A check that fails before anything is written. -/
theorem raise_rejects (s : State) (c : Cause) : ∃ t, raise c s = .next t ∧ Rejected s t c := by
  obtain ⟨t, ht, hf, hr, hc, hst, hm⟩ := raise_fails (SameRun.refl s) c rfl
  refine ⟨t, ht, hf, fun r => ?_, hc, hst, fun a => ?_⟩
  · rw [State.readReg, hr, State.readReg]
  · rw [readByte_eq, hm, hf.keeps.memDraw, readByte_eq]

/-! ### The operand checks -/

theorem withReg_ok {c : Cause} {v : Nat} (h : v < 16) (s : State) (k : Fin 16 → Out) : withReg c v s k = k ⟨v, h⟩ :=
  dif_pos h

theorem withReg_bad {c : Cause} {v : Nat} (h : 16 ≤ v) (s : State) (k : Fin 16 → Out) : withReg c v s k = raise c s :=
  dif_neg (Nat.not_lt.2 h)

theorem withThreeRegs_ok {d : Byte} {a b : Word} (hd : d.toNat < 16) (ha : a.toNat < 16) (hb : b.toNat < 16) (s : State)
    (k : Fin 16 → Fin 16 → Fin 16 → Out) :
    withThreeRegs d a b s k = k ⟨d.toNat, hd⟩ ⟨a.toNat, ha⟩ ⟨b.toNat, hb⟩ := by
  rw [withThreeRegs, withDest, withReg_ok hd, withOp1, withReg_ok ha, withOp2, withReg_ok hb]

theorem withTarget_ok {t : Word} {s : State} (h : t.toNat < s.progLen) (k : Out) : withTarget t s k = k := if_pos h

theorem withTarget_bad {t : Word} {s : State} (h : s.progLen ≤ t.toNat) (k : Out) :
    withTarget t s k = raise .badTarget s := if_neg (Nat.not_lt.2 h)

theorem withRoom_ok {s : State} (h : s.sp ≠ s.params.stackCapacity) (k : Out) : withRoom s k = k := if_neg h

theorem withRoom_full {s : State} (h : s.sp = s.params.stackCapacity) (k : Out) : withRoom s k = raise .stackFull s :=
  if_pos h

theorem withTop_empty {s : State} (h : s.stack = []) (k : Word → Out) : withTop s k = raise .stackEmpty s := by
  unfold withTop; rw [h]

theorem withTop_cons {s : State} {v : Word} {st : List Word} (h : s.stack = v :: st) (k : Word → Out) :
    withTop s k = k v := by
  unfold withTop; rw [h]

theorem withWordAddr_ok {a : Word} {s : State} (h : a.toNat + 4 ≤ s.cfgMemSize) (k : Out) : withWordAddr a s k = k :=
  if_pos (decide_eq_true h)

theorem withWordAddr_bad {a : Word} {s : State} (h : s.cfgMemSize < a.toNat + 4) (k : Out) :
    withWordAddr a s k = raise .memBounds s :=
  if_neg (by simp [wordOk]; omega)

theorem copyOk_iff (s : State) (d a n : Word) : copyOk s d a n = true ↔ CopyAllowed s d.toNat a.toNat n.toNat := by
  unfold copyOk CopyAllowed
  cases s.params.memcpyBound <;> simp [strictOk, rangeOk]

end Sys2Proof.Machine
end

