-- ==== Sys2Proof/Laws/Instr.lean ====
section
/-! SUPPORT. Each instruction's arm of `exec`, with its checks decided: one equation for its own effect, one for each check
that fails. -/

namespace Sys2Proof.Machine

variable (s : State) {d : Byte} {a b t imm : Word} {taken : Bool}

theorem exec_load (hd : d.toNat < 16) : exec (.load d imm) s = advance (s.pc + 1) (s.writeReg ⟨d.toNat, hd⟩ imm) := by
  rw [exec, execLoad, withDest, withReg_ok hd]

theorem exec_load_badReg (hd : 16 ≤ d.toNat) : exec (.load d imm) s = raise .badRegDest s := by
  rw [exec, execLoad, withDest, withReg_bad hd]

theorem exec_add (hd : d.toNat < 16) (ha : a.toNat < 16) (hb : b.toNat < 16) :
    exec (.add d a b) s =
      finishSum ⟨d.toNat, hd⟩ ((s.readReg ⟨a.toNat, ha⟩).toNat + (s.readReg ⟨b.toNat, hb⟩).toNat) s := by
  rw [exec, execAdd, withThreeRegs_ok hd ha hb]

theorem exec_sub (hd : d.toNat < 16) (ha : a.toNat < 16) (hb : b.toNat < 16) :
    exec (.sub d a b) s =
      finishDifference ⟨d.toNat, hd⟩ (s.readReg ⟨a.toNat, ha⟩).toNat (s.readReg ⟨b.toNat, hb⟩).toNat s := by
  rw [exec, execSub, withThreeRegs_ok hd ha hb]

theorem exec_mul (hd : d.toNat < 16) (ha : a.toNat < 16) (hb : b.toNat < 16) :
    exec (.mul d a b) s =
      finishSum ⟨d.toNat, hd⟩ ((s.readReg ⟨a.toNat, ha⟩).toNat * (s.readReg ⟨b.toNat, hb⟩).toNat) s := by
  rw [exec, execMul, withThreeRegs_ok hd ha hb]

theorem exec_div (hd : d.toNat < 16) (ha : a.toNat < 16) (hb : b.toNat < 16) :
    exec (.div d a b) s =
      finishQuotient ⟨d.toNat, hd⟩ (s.readReg ⟨b.toNat, hb⟩).toNat ((s.readReg ⟨a.toNat, ha⟩).toNat / (s.readReg ⟨b.toNat, hb⟩).toNat) s := by
  rw [exec, execDiv, withThreeRegs_ok hd ha hb]

theorem exec_mod (hd : d.toNat < 16) (ha : a.toNat < 16) (hb : b.toNat < 16) :
    exec (.mod d a b) s =
      finishQuotient ⟨d.toNat, hd⟩ (s.readReg ⟨b.toNat, hb⟩).toNat
        ((s.readReg ⟨a.toNat, ha⟩).toNat - (s.readReg ⟨a.toNat, ha⟩).toNat / (s.readReg ⟨b.toNat, hb⟩).toNat * (s.readReg ⟨b.toNat, hb⟩).toNat) s := by
  rw [exec, execMod, withThreeRegs_ok hd ha hb]

theorem exec_cmp (ha : a.toNat < 16) (hb : b.toNat < 16) :
    exec (.cmp a b) s =
      advance (s.pc + 1) (s.setCmpFlag (compareFlag (s.readReg ⟨a.toNat, ha⟩) (s.readReg ⟨b.toNat, hb⟩))) := by
  rw [exec, execCmp, withOp1, withReg_ok ha, withOp2, withReg_ok hb]

theorem exec_cmp_badOp1 (ha : 16 ≤ a.toNat) : exec (.cmp a b) s = raise .badRegOp1 s := by
  rw [exec, execCmp, withOp1, withReg_bad ha]

theorem exec_cmp_badOp2 (ha : a.toNat < 16) (hb : 16 ≤ b.toNat) : exec (.cmp a b) s = raise .badRegOp2 s := by
  rw [exec, execCmp, withOp1, withReg_ok ha, withOp2, withReg_bad hb]

theorem jumpTo_ok (h : t.toNat < s.progLen) : jumpTo taken t s = advance (if taken then t else s.pc + 1) s := by
  rw [jumpTo, withTarget_ok h]

theorem jumpTo_bad (h : s.progLen ≤ t.toNat) : jumpTo taken t s = raise .badTarget s := by
  rw [jumpTo, withTarget_bad h]

theorem exec_push (hd : d.toNat < 16) (h : s.sp ≠ s.params.stackCapacity) :
    exec (.push d) s = advance (s.pc + 1) (s.pushWord (s.readReg ⟨d.toNat, hd⟩)) := by
  rw [exec, execPush, withDest, withReg_ok hd, withRoom_ok h]

theorem exec_push_full (hd : d.toNat < 16) (h : s.sp = s.params.stackCapacity) :
    exec (.push d) s = raise .stackFull s := by
  rw [exec, execPush, withDest, withReg_ok hd, withRoom_full h]

theorem exec_push_badReg (hd : 16 ≤ d.toNat) : exec (.push d) s = raise .badRegDest s := by
  rw [exec, execPush, withDest, withReg_bad hd]

theorem exec_pop (hd : d.toNat < 16) {v : Word} {st : List Word} (h : s.stack = v :: st) :
    exec (.pop d) s = advance (s.pc + 1) (s.dropTop.writeReg ⟨d.toNat, hd⟩ v) := by
  rw [exec, execPop, withDest, withReg_ok hd, withTop_cons h]

theorem exec_pop_empty (hd : d.toNat < 16) (h : s.stack = []) : exec (.pop d) s = raise .stackEmpty s := by
  rw [exec, execPop, withDest, withReg_ok hd, withTop_empty h]

theorem exec_pop_badReg (hd : 16 ≤ d.toNat) : exec (.pop d) s = raise .badRegDest s := by
  rw [exec, execPop, withDest, withReg_bad hd]

theorem exec_call (ht : t.toNat < s.progLen) (h : s.sp ≠ s.params.stackCapacity) :
    exec (.call t) s = advance t (s.pushWord (s.pc + 1)) := by
  rw [exec, execCall, withTarget_ok ht, withRoom_ok h]

theorem exec_call_full (ht : t.toNat < s.progLen) (h : s.sp = s.params.stackCapacity) :
    exec (.call t) s = raise .stackFull s := by
  rw [exec, execCall, withTarget_ok ht, withRoom_full h]

theorem exec_call_badTarget (ht : s.progLen ≤ t.toNat) : exec (.call t) s = raise .badTarget s := by
  rw [exec, execCall, withTarget_bad ht]

theorem returnOk_iff (v : Word) : returnOk s v = true ↔ s.params.retCheckTarget = false ∨ v.toNat < s.progLen := by
  simp [returnOk]

theorem exec_ret {v : Word} {st : List Word} (h : s.stack = v :: st)
    (hok : s.params.retCheckTarget = false ∨ v.toNat < s.progLen) : exec .ret s = advance v s.dropTop := by
  rw [exec, execRet, withTop_cons h, if_pos ((returnOk_iff s v).2 hok)]

theorem exec_ret_bad {v : Word} {st : List Word} (h : s.stack = v :: st)
    (hbad : ¬ (s.params.retCheckTarget = false ∨ v.toNat < s.progLen)) : exec .ret s = raise .badReturn s := by
  rw [exec, execRet, withTop_cons h, if_neg fun hok => hbad ((returnOk_iff s v).1 hok)]

theorem exec_ret_empty (h : s.stack = []) : exec .ret s = raise .stackEmpty s := by
  rw [exec, execRet, withTop_empty h]

theorem exec_store (hd : d.toNat < 16) (ha : t.toNat + 4 ≤ s.cfgMemSize) :
    exec (.store d t) s = advance (s.pc + 1)
      ((s.setMem (s.wordWritten t.toNat (s.readReg ⟨d.toNat, hd⟩))).emit
        (.memAccess t true 4 (s.readReg ⟨d.toNat, hd⟩))) := by
  rw [exec, execStore, withDest, withReg_ok hd, withWordAddr_ok ha]

theorem exec_store_outside (hd : d.toNat < 16) (ha : s.cfgMemSize < t.toNat + 4) :
    exec (.store d t) s = raise .memBounds s := by
  rw [exec, execStore, withDest, withReg_ok hd, withWordAddr_bad ha]

theorem exec_store_badReg (hd : 16 ≤ d.toNat) : exec (.store d t) s = raise .badRegDest s := by
  rw [exec, execStore, withDest, withReg_bad hd]

theorem exec_loadMem (hd : d.toNat < 16) (ha : t.toNat + 4 ≤ s.cfgMemSize) :
    exec (.loadMem d t) s = advance (s.pc + 1)
      ((s.writeReg ⟨d.toNat, hd⟩ (s.readWord t.toNat)).emit (.memAccess t false 4 (s.readWord t.toNat))) := by
  rw [exec, execLoadMem, withDest, withReg_ok hd, withWordAddr_ok ha]

theorem exec_loadMem_outside (hd : d.toNat < 16) (ha : s.cfgMemSize < t.toNat + 4) :
    exec (.loadMem d t) s = raise .memBounds s := by
  rw [exec, execLoadMem, withDest, withReg_ok hd, withWordAddr_bad ha]

theorem exec_loadMem_badReg (hd : 16 ≤ d.toNat) : exec (.loadMem d t) s = raise .badRegDest s := by
  rw [exec, execLoadMem, withDest, withReg_bad hd]

theorem exec_memcpy_positional (h : s.params.memcpyFields = .positional) :
    exec (.memcpy d a b) s = copyBlock (d.setWidth 32) a b s := by
  unfold exec execMemcpy withCopyOperands
  rw [h]

theorem exec_memcpy_indirect (h : s.params.memcpyFields = .registerIndirect) :
    exec (.memcpy d a b) s = withThreeRegs d a b s fun rd ra rb =>
      copyBlock (s.readReg rd) (s.readReg ra) (s.readReg rb) s := by
  unfold exec execMemcpy withCopyOperands
  rw [h]

theorem toNat_dest (d : Byte) : (d.setWidth 32).toNat = d.toNat := by
  have := d.isLt
  simp
  omega

end Sys2Proof.Machine
end

