-- ==== Sys2Proof/Laws/Exec.lean ====
section
/-! SUPPORT. What `exec` can do, said once: every instruction ends with `advance`, `stop` or `raise`, from a state in which
it has written only what its rule lets it write. -/

namespace Sys2Proof.Machine

/-- What an instruction `i` may have written by the time it ends. -/
structure Effects (i : Instr) (s u : State) : Prop where
  cmpFlag : (∀ a b, i ≠ .cmp a b) → u.cmpFlag = s.cmpFlag
  regs : ∀ r : Fin 16, (∀ d, writtenReg i = some d → d.toNat ≠ r.val) → u.readReg r = s.readReg r
  stack : u.stack = s.stack ∨
    ((i.opcode = .push ∨ i.opcode = .call) ∧ s.sp ≠ s.params.stackCapacity ∧ ∃ v, u.stack = v :: s.stack) ∨
    ((i.opcode = .pop ∨ i.opcode = .ret) ∧ ∃ v, s.stack = v :: u.stack)
  mem : ∀ a, (∀ d n, storedRange s i = some (d, n) → a < d ∨ d + n ≤ a) → u.readByte a = s.readByte a
  memWf : s.mem.wf → u.mem.wf
  memInside : (∀ c ∈ s.mem, c.1 < s.cfgMemSize) → ∀ c ∈ u.mem, c.1 < s.cfgMemSize

theorem Effects.refl (i : Instr) (s : State) : Effects i s s :=
  ⟨fun _ => rfl, fun _ _ => rfl, .inl rfl, fun _ _ => rfl, id, id⟩

/-- An instruction that has written only its own destination register. -/
theorem Effects.of_writeReg {i : Instr} {s : State} {d : Byte} (hd : d.toNat < 16) (h : writtenReg i = some d) (v : Word) :
    Effects i s (s.writeReg ⟨d.toNat, hd⟩ v) := by
  refine ⟨fun _ => rfl, fun r hr => ?_, .inl rfl, fun _ _ => rfl, id, id⟩
  rw [readReg_writeReg, if_neg]
  intro heq
  exact hr d h (by rw [heq])

/-- How an instruction ends. -/
inductive Ends (i : Instr) (s : State) : Prop where
  /-- `Next(t)`. -/
  | next (u : State) (t : Word) (accesses : List Event) (same : SameRun s u) (events : u.events = s.events ++ accesses)
      (effects : Effects i s u) (target : t = s.pc + 1 ∨ t.toNat < s.progLen ∨ s.params.retCheckTarget = false)
      (out : exec i s = advance t u)
  /-- `Stop`: HALT only. -/
  | stop (halt : i = .halt) (out : exec i s = stop s)
  /-- `Fail(kind, cause)`, with nothing written or, on overflow and underflow, the clamped destination (R174). -/
  | fail (u : State) (c : Cause) (run : c.code.toNat ≤ 13) (same : SameRun s u) (events : u.events = s.events)
      (written : (u = s ∧ c ≠ .arithOverflow ∧ c ≠ .arithUnderflow) ∨
        ∃ d v, ∃ hd : d.toNat < 16, Clamps i c d v ∧ u = s.writeReg ⟨d.toNat, hd⟩ v)
      (out : exec i s = raise c u)

/-- A failure with a cause below the two arithmetic ones (12 and 13), with nothing written. -/
theorem Ends.rejected {i : Instr} {s : State} (c : Cause) (run : c.code.toNat ≤ 11) (out : exec i s = raise c s) :
    Ends i s :=
  .fail s c (Nat.le_trans run (by decide)) (SameRun.refl s) rfl
    (.inl ⟨rfl, by rintro rfl; exact absurd run (by decide), by rintro rfl; exact absurd run (by decide)⟩) out

theorem SameRun.of_writeReg (s : State) (r : Fin 16) (v : Word) : SameRun s (s.writeReg r v) :=
  ⟨⟨rfl, rfl, rfl, rfl, rfl, rfl, rfl, rfl⟩, rfl, rfl, rfl, rfl, rfl, rfl, rfl⟩

theorem SameRun.of_setStack (s : State) (st : List Word) : SameRun s (s.setStack st) :=
  ⟨⟨rfl, rfl, rfl, rfl, rfl, rfl, rfl, rfl⟩, rfl, rfl, rfl, rfl, rfl, rfl, rfl⟩

theorem SameRun.of_setMem (s : State) (m : Memory) : SameRun s (s.setMem m) :=
  ⟨⟨rfl, rfl, rfl, rfl, rfl, rfl, rfl, rfl⟩, rfl, rfl, rfl, rfl, rfl, rfl, rfl⟩

theorem SameRun.of_setCmpFlag (s : State) (f : CmpFlag) : SameRun s (s.setCmpFlag f) :=
  ⟨⟨rfl, rfl, rfl, rfl, rfl, rfl, rfl, rfl⟩, rfl, rfl, rfl, rfl, rfl, rfl, rfl⟩

theorem SameRun.emit {s u : State} (h : SameRun s u) (e : Event) : SameRun s (u.emit e) :=
  ⟨⟨h.keeps.params, h.keeps.live, h.keeps.memDraw, h.keeps.cfgMemSize, h.keeps.prog, h.keeps.lastInsn, h.keeps.lastValid,
    h.keeps.pending⟩, h.pc, h.engineState, h.err, h.response, h.execCount, h.icache, h.cacheDraw⟩

theorem SameRun.writeReg {s u : State} (h : SameRun s u) (r : Fin 16) (v : Word) : SameRun s (u.writeReg r v) :=
  ⟨⟨h.keeps.params, h.keeps.live, h.keeps.memDraw, h.keeps.cfgMemSize, h.keeps.prog, h.keeps.lastInsn, h.keeps.lastValid,
    h.keeps.pending⟩, h.pc, h.engineState, h.err, h.response, h.execCount, h.icache, h.cacheDraw⟩

/-- Where one of three register indices is bad, the first failing check rejects, whatever would follow. -/
theorem withThreeRegs_rejects {d : Byte} {a b : Word} (h : ¬ (d.toNat < 16 ∧ a.toNat < 16 ∧ b.toNat < 16)) (s : State) :
    ∃ c : Cause, c.code.toNat ≤ 11 ∧ ∀ k : Fin 16 → Fin 16 → Fin 16 → Out, withThreeRegs d a b s k = raise c s := by
  by_cases hd : d.toNat < 16
  · by_cases ha : a.toNat < 16
    · refine ⟨.badRegOp2, by decide, fun k => ?_⟩
      rw [withThreeRegs, withDest, withReg_ok hd, withOp1, withReg_ok ha, withOp2, withReg_bad]
      omega
    · refine ⟨.badRegOp1, by decide, fun k => ?_⟩
      rw [withThreeRegs, withDest, withReg_ok hd, withOp1, withReg_bad (by omega)]
  · exact ⟨.badRegDest, by decide, fun k => by rw [withThreeRegs, withDest, withReg_bad (by omega)]⟩

theorem ends_of_finishSum {i : Instr} {s : State} {d : Byte} (hd : d.toNat < 16) (hw : writtenReg i = some d)
    (hc : ∃ a b, i = .add d a b ∨ i = .mul d a b) (v : Nat) (h : exec i s = finishSum ⟨d.toNat, hd⟩ v s) : Ends i s := by
  unfold finishSum at h
  split at h
  · exact .fail _ .arithOverflow (by decide) (SameRun.of_writeReg _ _ _) rfl
      (.inr ⟨d, _, hd, .inl ⟨rfl, rfl, hc⟩, rfl⟩) h
  · exact .next _ _ [] (SameRun.of_writeReg _ _ _) (by simp) (Effects.of_writeReg hd hw _) (.inl rfl) h

theorem ends_of_finishDifference {i : Instr} {s : State} {d : Byte} (hd : d.toNat < 16) (hw : writtenReg i = some d)
    (hc : ∃ a b, i = .sub d a b) (a b : Nat) (h : exec i s = finishDifference ⟨d.toNat, hd⟩ a b s) : Ends i s := by
  unfold finishDifference at h
  split at h
  · exact .fail _ .arithUnderflow (by decide) (SameRun.of_writeReg _ _ _) rfl
      (.inr ⟨d, _, hd, .inr ⟨rfl, rfl, hc⟩, rfl⟩) h
  · exact .next _ _ [] (SameRun.of_writeReg _ _ _) (by simp) (Effects.of_writeReg hd hw _) (.inl rfl) h

theorem ends_of_finishQuotient {i : Instr} {s : State} {d : Byte} (hd : d.toNat < 16) (hw : writtenReg i = some d)
    (q v : Nat) (h : exec i s = finishQuotient ⟨d.toNat, hd⟩ q v s) : Ends i s := by
  unfold finishQuotient at h
  split at h
  · exact .rejected .divZero (by decide) h
  · exact .next _ _ [] (SameRun.of_writeReg _ _ _) (by simp) (Effects.of_writeReg hd hw _) (.inl rfl) h

theorem ends_of_jumpTo {i : Instr} {s : State} (taken : Bool) (t : Word) (h : exec i s = jumpTo taken t s) : Ends i s := by
  by_cases ht : t.toNat < s.progLen
  · rw [jumpTo_ok s ht] at h
    refine .next s _ [] (SameRun.refl s) (by simp) (Effects.refl i s) ?_ h
    cases taken
    · exact .inl rfl
    · exact .inr (.inl ht)
  · rw [jumpTo_bad s (by omega)] at h
    exact .rejected .badTarget (by decide) h

/-- A block copy within its bounds writes only its destination's bytes. -/
theorem ends_of_copyBlock {i : Instr} {s : State} (d a n : Word) (hr : storedRange s i = some (d.toNat, n.toNat))
    (h : exec i s = copyBlock d a n s) : Ends i s := by
  unfold copyBlock at h
  split at h
  · exact .next s _ [] (SameRun.refl s) (by simp) (Effects.refl i s) (.inl rfl) h
  · split at h
    · next hok =>
      refine .next _ _ [] (SameRun.of_setMem _ _) (by simp) ?_ (.inl rfl) h
      refine ⟨fun _ => rfl, fun _ _ => rfl, .inl rfl, fun x hx => ?_, fun hwf => Memory.copy_wf hwf _ _ _ _, fun hin c hc => ?_⟩
      · rw [readByte_eq, setMem_mem, setMem_memDraw, Memory.read_copy, if_neg, readByte_eq]
        have := hx _ _ hr
        omega
      · rcases Memory.mem_copy hc with hc | hc
        · have hall := (copyOk_iff s d a n).1 hok
          unfold CopyAllowed at hall
          cases hb : s.params.memcpyBound with
          | strict => have := hall.1 hb; omega
          | range => have := hall.2 hb; omega
        · exact hin c hc
    · exact .rejected .copyBounds (by decide) h

/-- Every instruction ends in one of the three ways. -/
theorem exec_ends (i : Instr) (s : State) : Ends i s := by
  cases i with
  | halt => exact .stop rfl rfl
  | load d imm =>
    by_cases hd : d.toNat < 16
    · exact .next _ _ [] (SameRun.of_writeReg _ _ _) (by simp) (Effects.of_writeReg hd rfl imm) (.inl rfl) (exec_load s hd)
    · exact .rejected .badRegDest (by decide) (exec_load_badReg s (by omega))
  | add d a b =>
    by_cases h : d.toNat < 16 ∧ a.toNat < 16 ∧ b.toNat < 16
    · exact ends_of_finishSum h.1 rfl ⟨a, b, .inl rfl⟩ _ (exec_add s h.1 h.2.1 h.2.2)
    · obtain ⟨c, hc, h⟩ := withThreeRegs_rejects h s
      exact .rejected c hc (by rw [exec, execAdd]; exact h _)
  | sub d a b =>
    by_cases h : d.toNat < 16 ∧ a.toNat < 16 ∧ b.toNat < 16
    · exact ends_of_finishDifference h.1 rfl ⟨a, b, rfl⟩ _ _ (exec_sub s h.1 h.2.1 h.2.2)
    · obtain ⟨c, hc, h⟩ := withThreeRegs_rejects h s
      exact .rejected c hc (by rw [exec, execSub]; exact h _)
  | mul d a b =>
    by_cases h : d.toNat < 16 ∧ a.toNat < 16 ∧ b.toNat < 16
    · exact ends_of_finishSum h.1 rfl ⟨a, b, .inr rfl⟩ _ (exec_mul s h.1 h.2.1 h.2.2)
    · obtain ⟨c, hc, h⟩ := withThreeRegs_rejects h s
      exact .rejected c hc (by rw [exec, execMul]; exact h _)
  | div d a b =>
    by_cases h : d.toNat < 16 ∧ a.toNat < 16 ∧ b.toNat < 16
    · exact ends_of_finishQuotient h.1 rfl _ _ (exec_div s h.1 h.2.1 h.2.2)
    · obtain ⟨c, hc, h⟩ := withThreeRegs_rejects h s
      exact .rejected c hc (by rw [exec, execDiv]; exact h _)
  | mod d a b =>
    by_cases h : d.toNat < 16 ∧ a.toNat < 16 ∧ b.toNat < 16
    · exact ends_of_finishQuotient h.1 rfl _ _ (exec_mod s h.1 h.2.1 h.2.2)
    · obtain ⟨c, hc, h⟩ := withThreeRegs_rejects h s
      exact .rejected c hc (by rw [exec, execMod]; exact h _)
  | cmp a b =>
    by_cases ha : a.toNat < 16
    · by_cases hb : b.toNat < 16
      · refine .next _ _ [] (SameRun.of_setCmpFlag _ _) (by simp) ?_ (.inl rfl) (exec_cmp s ha hb)
        exact ⟨fun h => absurd rfl (h a b), fun _ _ => rfl, .inl rfl, fun _ _ => rfl, id, id⟩
      · exact .rejected .badRegOp2 (by decide) (exec_cmp_badOp2 s ha (by omega))
    · exact .rejected .badRegOp1 (by decide) (exec_cmp_badOp1 s (by omega))
  | jmp t => exact ends_of_jumpTo _ t rfl
  | jeq t => exact ends_of_jumpTo _ t rfl
  | jne t => exact ends_of_jumpTo _ t rfl
  | jgt t => exact ends_of_jumpTo _ t rfl
  | jlt t => exact ends_of_jumpTo _ t rfl
  | jge t => exact ends_of_jumpTo _ t rfl
  | push d =>
    by_cases hd : d.toNat < 16
    · by_cases hr : s.sp = s.params.stackCapacity
      · exact .rejected .stackFull (by decide) (exec_push_full s hd hr)
      · refine .next _ _ [] (SameRun.of_setStack _ _) (by simp) ?_ (.inl rfl) (exec_push s hd hr)
        exact ⟨fun _ => rfl, fun _ _ => rfl, .inr (.inl ⟨.inl rfl, hr, _, rfl⟩), fun _ _ => rfl, id, id⟩
    · exact .rejected .badRegDest (by decide) (exec_push_badReg s (by omega))
  | pop d =>
    by_cases hd : d.toNat < 16
    · cases hst : s.stack with
      | nil => exact .rejected .stackEmpty (by decide) (exec_pop_empty s hd hst)
      | cons v st =>
        refine .next _ _ [] ((SameRun.of_setStack _ _).writeReg _ _) (by simp) ?_ (.inl rfl) (exec_pop s hd hst)
        refine ⟨fun _ => rfl, fun r hr => ?_, .inr (.inr ⟨.inl rfl, v, by simp [hst]⟩), fun _ _ => rfl, id, id⟩
        rw [readReg_writeReg, if_neg]
        · rfl
        · intro heq; exact hr d rfl (by rw [heq])
    · exact .rejected .badRegDest (by decide) (exec_pop_badReg s (by omega))
  | store d addr =>
    by_cases hd : d.toNat < 16
    · by_cases ha : addr.toNat + 4 ≤ s.cfgMemSize
      · refine .next _ _ [_] ((SameRun.of_setMem s (s.wordWritten addr.toNat (s.readReg ⟨d.toNat, hd⟩))).emit _) rfl ?_ (.inl rfl)
          (exec_store s hd ha)
        refine ⟨fun _ => rfl, fun _ _ => rfl, .inl rfl, fun x hx => ?_, fun h => Memory.writeWord_wf h _ _ _, fun hin c hc => ?_⟩
        · have := hx _ _ rfl
          simp only [readByte_eq, emit_mem, emit_memDraw, setMem_mem, setMem_memDraw]
          rw [State.wordWritten, Memory.read_writeWord, if_neg (by omega)]
        · rcases Memory.mem_writeWord hc with hc | hc
          · omega
          · exact hin c hc
      · exact .rejected .memBounds (by decide) (exec_store_outside s hd (by omega))
    · exact .rejected .badRegDest (by decide) (exec_store_badReg s (by omega))
  | loadMem d addr =>
    by_cases hd : d.toNat < 16
    · by_cases ha : addr.toNat + 4 ≤ s.cfgMemSize
      · refine .next _ _ [_] ((SameRun.of_writeReg _ _ _).emit _) rfl ?_ (.inl rfl) (exec_loadMem s hd ha)
        obtain ⟨h1, h2, h3, h4, h5, h6⟩ := Effects.of_writeReg (i := .loadMem d addr) (s := s) hd rfl (s.readWord addr.toNat)
        exact ⟨h1, h2, h3, h4, h5, h6⟩
      · exact .rejected .memBounds (by decide) (exec_loadMem_outside s hd (by omega))
    · exact .rejected .badRegDest (by decide) (exec_loadMem_badReg s (by omega))
  | memcpy d a b =>
    cases hf : s.params.memcpyFields with
    | positional =>
      exact ends_of_copyBlock _ _ _ (by simp only [storedRange, hf, toNat_dest]) (exec_memcpy_positional s hf)
    | registerIndirect =>
      have h := exec_memcpy_indirect s (d := d) (a := a) (b := b) hf
      by_cases hw : d.toNat < 16 ∧ a.toNat < 16 ∧ b.toNat < 16
      · rw [withThreeRegs_ok hw.1 hw.2.1 hw.2.2] at h
        exact ends_of_copyBlock _ _ _ (by simp [storedRange, hf, hw]) h
      · obtain ⟨c, hc, h'⟩ := withThreeRegs_rejects hw s
        exact .rejected c hc (h.trans (h' _))
  | call t =>
    by_cases ht : t.toNat < s.progLen
    · by_cases hr : s.sp = s.params.stackCapacity
      · exact .rejected .stackFull (by decide) (exec_call_full s ht hr)
      · refine .next _ _ [] (SameRun.of_setStack _ _) (by simp) ?_ (.inr (.inl ht)) (exec_call s ht hr)
        exact ⟨fun _ => rfl, fun _ _ => rfl, .inr (.inl ⟨.inr rfl, hr, _, rfl⟩), fun _ _ => rfl, id, id⟩
    · exact .rejected .badTarget (by decide) (exec_call_badTarget s (by omega))
  | ret =>
    cases hst : s.stack with
    | nil => exact .rejected .stackEmpty (by decide) (exec_ret_empty s hst)
    | cons v st =>
      by_cases hok : s.params.retCheckTarget = false ∨ v.toNat < s.progLen
      · refine .next _ _ [] (SameRun.of_setStack _ _) (by simp) ?_ (.inr hok.symm) (exec_ret s hst hok)
        exact ⟨fun _ => rfl, fun _ _ => rfl, .inr (.inr ⟨.inr rfl, v, by simp [hst]⟩), fun _ _ => rfl, id, id⟩
      · exact .rejected .badReturn (by decide) (exec_ret_bad s hst hok)

/-- What the state after an instruction holds, in the words of Sys2Proof/Safety.lean. -/
theorem exec_answers (i : Instr) (s : State) :
    ∃ t, exec i s = .next t ∧
      ((∃ next accesses, Completed s t next accesses ∧ Effects i s t ∧
          (next = s.pc + 1 ∨ next.toNat < s.progLen ∨ s.params.retCheckTarget = false)) ∨
        (i = .halt ∧ Stopped s t ∧ t.regs = s.regs ∧ t.cmpFlag = s.cmpFlag ∧ t.stack = s.stack ∧ t.mem = s.mem) ∨
        ∃ c : Cause, FailedWith s t c ∧ c.code.toNat ≤ 13 ∧ t.cmpFlag = s.cmpFlag ∧ t.stack = s.stack ∧ t.mem = s.mem ∧
          ((t.regs = s.regs ∧ c ≠ .arithOverflow ∧ c ≠ .arithUnderflow) ∨
            ∃ d v, ∃ hd : d.toNat < 16, Clamps i c d v ∧ t.regs = (s.writeReg ⟨d.toNat, hd⟩ v).regs)) := by
  cases exec_ends i s with
  | next u t acc hs he hf ht hout =>
    obtain ⟨x, hx, hc, h1, h2, h3, h4⟩ := advance_completes hs t acc he
    obtain ⟨f1, f2, f3, f4, f5, f6⟩ := hf
    refine ⟨x, hout.trans hx, .inl ⟨t, acc, hc, ⟨fun h => by rw [h2, f1 h], fun r h => ?_, by rw [h3]; exact f3,
      fun a h => ?_, by rw [h4]; exact f5, by rw [h4]; exact f6⟩, ht⟩⟩
    · rw [State.readReg, h1]
      exact f2 r h
    · rw [readByte_eq, h4, hc.keeps.memDraw, ← hs.keeps.memDraw]
      exact f4 a h
  | stop hi hout =>
    obtain ⟨x, hx, hc, h1, h2, h3, h4⟩ := stop_stops s
    exact ⟨x, hout.trans hx, .inr (.inl ⟨hi, hc, h1, h2, h3, h4⟩)⟩
  | fail u c hrun hs he hw hout =>
    obtain ⟨x, hx, hc, h1, h2, h3, h4⟩ := raise_fails hs c he
    refine ⟨x, hout.trans hx, .inr (.inr ⟨c, hc, hrun, ?_⟩)⟩
    rcases hw with ⟨rfl, hw⟩ | ⟨d, v, hd, hw, rfl⟩
    · exact ⟨h2, h3, h4, .inl ⟨h1, hw⟩⟩
    · exact ⟨h2, h3, h4, .inr ⟨d, v, hd, hw, h1⟩⟩

/-- What an instruction keeps of the cache's invariant (R47, R158). -/
theorem exec_cache {i : Instr} {s t : State} (h : exec i s = .next t) :
    (s.CacheCoherent → t.CacheCoherent) ∧
      ((s.icache.Pairwise fun c d => c.1 < d.1) →
        (t.icache.Pairwise fun c d => c.1 < d.1) ∧
          (s.icache.length ≤ s.params.icacheEntries → t.icache.length ≤ t.params.icacheEntries)) := by
  rcases exec_ends i s with ⟨u, n, acc, hu, _, _, _, ho⟩ | ⟨_, ho⟩ | ⟨u, c, _, hu, _, _, ho⟩
  · rw [ho] at h
    cases h
    refine ⟨fun hc => moveTo_coherent n fun e he => ?_, fun hs => ?_⟩
    · have he' : e ∈ u.icache := by simpa using he
      rw [hu.icache] at he'
      show u.prog[e.1]? = _
      rw [hu.keeps.prog]
      exact hc e he'
    · have hs' : ((u.countDispatch.emitEnd .ok n).setPc n).icache.Pairwise fun c d => c.1 < d.1 := by
        show u.icache.Pairwise _
        rw [hu.icache]
        exact hs
      have hb' (hb : s.icache.length ≤ s.params.icacheEntries) : u.icache.length ≤ u.params.icacheEntries := by
        rw [hu.icache, hu.keeps.params]
        exact hb
      by_cases hm : n.toNat % Config.hotPeriod = 0
      · rw [State.moveTo, if_pos hm]
        exact ⟨maintain_sorted hs', fun hb => by rw [maintain_params]; exact maintain_bounded hs' (hb' hb)⟩
      · rw [State.moveTo, if_neg hm]
        exact ⟨hs', hb'⟩
  · rw [ho] at h
    cases h
    exact ⟨id, fun hs => ⟨hs, id⟩⟩
  · rw [ho] at h
    cases h
    refine ⟨fun hc e he => ?_, fun hs => ⟨?_, fun hb => ?_⟩⟩
    · have he' : e ∈ u.icache := he
      rw [hu.icache] at he'
      show u.prog[e.1]? = _
      rw [hu.keeps.prog]
      exact hc e he'
    · show u.icache.Pairwise _
      rw [hu.icache]
      exact hs
    · show u.icache.length ≤ u.params.icacheEntries
      rw [hu.icache, hu.keeps.params]
      exact hb

end Sys2Proof.Machine
end

