-- ==== Sys2Proof/Laws/PerInstr.lean ====
section
/-! SUPPORT. For every instruction: the opcode byte of its record is its operation's number, and selects that operation
(spec/30_encoding.md R92, R93, R95). -/

namespace Sys2Proof.Laws.EncodedOpcode

/-- Whatever the numbers of CALL and RET, the record of `i` carries the opcode of `i`, and selects it if they are legal. -/
def Statement (i : Instr) : Prop :=
  ∀ n : OpcodeNums, opcodeField (encode n i) = i.opcode.code n ∧
    (n.Legal → Opcode.ofByte n (opcodeField (encode n i)) = some i.opcode)

theorem of_pack {i : Instr} {d : Byte} {a b : Word} (h : ∀ n, encode n i = pack n i.opcode d a b) : Statement i := by
  intro n
  rw [h, opcodeField_pack]
  exact ⟨rfl, fun hn => ofByte_code hn _⟩

theorem halt : Statement .halt := of_pack fun _ => rfl
theorem load (rd : Byte) (imm : Word) : Statement (.load rd imm) := of_pack fun _ => rfl
theorem add (rd : Byte) (rs1 rs2 : Word) : Statement (.add rd rs1 rs2) := of_pack fun _ => rfl
theorem sub (rd : Byte) (rs1 rs2 : Word) : Statement (.sub rd rs1 rs2) := of_pack fun _ => rfl
theorem mul (rd : Byte) (rs1 rs2 : Word) : Statement (.mul rd rs1 rs2) := of_pack fun _ => rfl
theorem div (rd : Byte) (rs1 rs2 : Word) : Statement (.div rd rs1 rs2) := of_pack fun _ => rfl
theorem mod (rd : Byte) (rs1 rs2 : Word) : Statement (.mod rd rs1 rs2) := of_pack fun _ => rfl
theorem cmp (rs1 rs2 : Word) : Statement (.cmp rs1 rs2) := of_pack fun _ => rfl
theorem jmp (target : Word) : Statement (.jmp target) := of_pack fun _ => rfl
theorem jeq (target : Word) : Statement (.jeq target) := of_pack fun _ => rfl
theorem jne (target : Word) : Statement (.jne target) := of_pack fun _ => rfl
theorem jgt (target : Word) : Statement (.jgt target) := of_pack fun _ => rfl
theorem jlt (target : Word) : Statement (.jlt target) := of_pack fun _ => rfl
theorem jge (target : Word) : Statement (.jge target) := of_pack fun _ => rfl
theorem push (rs : Byte) : Statement (.push rs) := of_pack fun _ => rfl
theorem pop (rd : Byte) : Statement (.pop rd) := of_pack fun _ => rfl
theorem store (rs : Byte) (addr : Word) : Statement (.store rs addr) := of_pack fun _ => rfl
theorem loadMem (rd : Byte) (addr : Word) : Statement (.loadMem rd addr) := of_pack fun _ => rfl
theorem memcpy (dest : Byte) (src len : Word) : Statement (.memcpy dest src len) := of_pack fun _ => rfl
theorem call (target : Word) : Statement (.call target) := of_pack fun _ => rfl
theorem ret : Statement .ret := of_pack fun _ => rfl

end Sys2Proof.Laws.EncodedOpcode
end

