-- ==== Sys2Proof/Laws/Step.lean ====
section
/-! SUPPORT. What one step of the unit can be: a host command, the end of the program, or one dispatched instruction. -/

namespace Sys2Proof.Machine

/-- With a coherent cache, fetch gives the program's record, cached or not (R140, R158). -/
theorem recordAt_eq {s : State} (h : s.CacheCoherent) : s.recordAt = s.prog[s.pc.toNat]? := by
  unfold State.recordAt
  split
  · next r hr => exact (h _ (ICache.mem_of_lookup hr)).symm
  · rfl

theorem step_waiting {s : State} (h : s.engineState ≠ .running) : step s = .next s.hostStep := if_neg h

theorem step_running {s : State} (h : s.engineState = .running) : step s = s.runStep := if_pos h

theorem runStep_offEnd {s : State} (h : s.progLen ≤ s.pc.toNat) : s.runStep = .next s.clearEvents.runOff := if_pos h

theorem runStep_fetched {s : State} {r : Record} (h : s.pc.toNat < s.progLen) (hr : s.recordAt = some r) :
    s.runStep = (s.clearEvents.fetched r).dispatch r := by
  unfold State.runStep
  rw [if_neg (Nat.not_le.2 h), hr]

/-- Fetching keeps the parameters, so the record fetched is decoded with the unit's own opcode numbers. -/
@[simp] theorem params_fetched (s : State) (r : Record) : (s.clearEvents.fetched r).params = s.params := rfl

/-- One iteration of the run loop either ends the run or dispatches the fetched record. -/
theorem runStep_cases (s : State) :
    s.runStep = .next s.clearEvents.runOff ∨
    ∃ r, s.pc.toNat < s.progLen ∧ s.recordAt = some r ∧ s.runStep = (s.clearEvents.fetched r).dispatch r := by
  by_cases h : s.progLen ≤ s.pc.toNat
  · exact .inl (runStep_offEnd h)
  · cases hr : s.recordAt with
    | none =>
      left
      unfold State.runStep
      rw [if_neg h, hr]
    | some r => exact .inr ⟨r, by omega, rfl, runStep_fetched (by omega) hr⟩

theorem dispatch_ok {s : State} {r : Record} {i : Instr} (h : decode s.params.opcodes r = .ok i) :
    s.dispatch r = exec i s := by
  unfold State.dispatch
  rw [h]

theorem dispatch_illegal {s : State} {r : Record} {e : DecodeError} (h : decode s.params.opcodes r = .error e) :
    s.dispatch r = raise .illegalOpcode s := by
  unfold State.dispatch
  rw [h]

/-- A dispatched record runs its instruction or fails as an illegal opcode. -/
theorem dispatch_cases (s : State) (r : Record) :
    (∃ i, decode s.params.opcodes r = .ok i ∧ s.dispatch r = exec i s) ∨
    (∃ e, decode s.params.opcodes r = .error e ∧ s.dispatch r = raise .illegalOpcode s) := by
  cases h : decode s.params.opcodes r with
  | ok i => exact .inl ⟨i, rfl, dispatch_ok h⟩
  | error e => exact .inr ⟨e, rfl, dispatch_illegal h⟩

/-- The state a fetch hands to dispatch: `last_insn`, `last_valid` and the BEGIN event are all that is new (R132, R140). -/
theorem fetched_eq (s : State) (r : Record) :
    s.clearEvents.fetched r =
      { s with lastInsn := r, lastValid := true,
               events := [.beginInsn s.pc r { pc := s.pc, regs := s.regs, stackDepth := s.sp, cmpFlag := s.cmpFlag }] } :=
  rfl

theorem hostStep_none {s : State} (h : s.pending = []) : s.hostStep = s := by
  unfold State.hostStep
  rw [h]

theorem hostStep_some {s : State} {c : HostCmd} {cs : List HostCmd} (h : s.pending = c :: cs) :
    s.hostStep = ({ s with pending := cs, events := [] } : State).command c := by
  unfold State.hostStep
  rw [h]
  rfl

end Sys2Proof.Machine
end

