-- ==== Sys2Proof/Tests/Slice0.lean ====
section
/-! SUPPORT. Tests whose expected results are spec/95_test_vectors.md's (a vector's name stands in the comment) or the rule's
own, and for every statement with hypotheses a witness that they can be met. -/

namespace Sys2Proof.Tests

open Sys2Proof Sys2Proof.Machine

/-! ### Small states -/

/-- The parameters of the vectors: `STACK_CAPACITY = 16`, the defaults elsewhere (spec/95_test_vectors.md). -/
def params : Params :=
  { opcodes := .standard, dataEndian := .little, stackCapacity := 16, progCapacity := 10, icacheEntries := 1,
    memcpyFields := .positional, memcpyBound := .strict, retCheckTarget := true }

/-- A unit after INIT. -/
def idle : State := State.afterInit params 65536 0 0 []

/-- A unit running a program, at an index of it. -/
def running (prog : List Record) (pc : Word) : State :=
  { idle with prog := prog, pc := pc, engineState := .running, response := none,
              execCount := List.replicate prog.length 0 }

/-- `PROG_LEN = 10`, at index 5. -/
def at5 : State := running (List.replicate 10 (encode .standard .halt)) 5

/-- `at5` with `x1`, `x2`, `x3`. -/
def at5r (x1 x2 x3 : Word) : State := ((at5.writeReg 1 x1).writeReg 2 x2).writeReg 3 x3

/-- `at5` with a stack, its top first. -/
def at5st (st : List Word) : State := at5.setStack st

/-- `at5` with a flag. -/
def at5f (f : CmpFlag) : State := at5.setCmpFlag f

/-- `at5` with bytes written. -/
def at5m (m : Memory) : State := at5.setMem m

/-- A run of one record. -/
def fresh (w : Record) : State := running [w] 0

/-- What holds after a step that answers a next state. -/
def after (o : Out) (p : State → Bool) : Bool :=
  match o with
  | .next t => p t
  | .fault _ => false
  | .refused _ => false

/-- The instruction has completed and `pc` is `next`. -/
def ok (t : State) (next : Word) : Bool := t.engineState == .running && t.pc == next && t.err == ErrRecord.clear

/-- The instruction has failed with `c` at index 5. -/
def failed (t : State) (c : Cause) : Bool :=
  t.engineState == .failed && t.pc == 5 && t.err.valid && t.err.kind == c.kind.code && t.err.cause == c.code &&
    t.err.pc == 5 && t.response == some (.failure c.kind c)

/-! ### Well-formedness: one ill-formed term for each check -/

theorem test_wellFormed_accepts :
    Instr.wellFormed .positional (.add 15 15 15) = true ∧ Instr.wellFormed .positional (.cmp 15 15) = true ∧
      Instr.wellFormed .positional (.memcpy 255 0xFFFFFFFF 0xFFFFFFFF) = true ∧
      Instr.wellFormed .registerIndirect (.memcpy 15 15 15) = true := by decide

theorem test_wellFormed_refuses_dest :
    Instr.wellFormed .positional (.load 16 0) = false ∧ Instr.wellFormed .positional (.add 16 0 0) = false ∧
      Instr.wellFormed .positional (.sub 16 0 0) = false ∧ Instr.wellFormed .positional (.mul 16 0 0) = false ∧
      Instr.wellFormed .positional (.div 16 0 0) = false ∧ Instr.wellFormed .positional (.mod 16 0 0) = false ∧
      Instr.wellFormed .positional (.push 16) = false ∧ Instr.wellFormed .positional (.pop 255) = false ∧
      Instr.wellFormed .positional (.store 16 0) = false ∧ Instr.wellFormed .positional (.loadMem 16 0) = false ∧
      Instr.wellFormed .registerIndirect (.memcpy 16 0 0) = false := by decide

theorem test_wellFormed_refuses_operand1 :
    Instr.wellFormed .positional (.add 0 16 0) = false ∧ Instr.wellFormed .positional (.sub 0 16 0) = false ∧
      Instr.wellFormed .positional (.mul 0 0x103 0) = false ∧ Instr.wellFormed .positional (.div 0 16 0) = false ∧
      Instr.wellFormed .positional (.mod 0 16 0) = false ∧ Instr.wellFormed .positional (.cmp 16 0) = false ∧
      Instr.wellFormed .registerIndirect (.memcpy 0 16 0) = false := by decide

theorem test_wellFormed_refuses_operand2 :
    Instr.wellFormed .positional (.add 0 0 16) = false ∧ Instr.wellFormed .positional (.sub 0 0 16) = false ∧
      Instr.wellFormed .positional (.mul 0 0 16) = false ∧ Instr.wellFormed .positional (.div 0 0 16) = false ∧
      Instr.wellFormed .positional (.mod 0 0 0x80000000) = false ∧ Instr.wellFormed .positional (.cmp 0 16) = false ∧
      Instr.wellFormed .registerIndirect (.memcpy 0 0 16) = false := by decide

/-! ### Decoding: a word written out from R90, R92, R93 and R95 for every constructor -/

theorem test_decode_halt : decode .standard 0xDEADBEEF12345678FF00 = .ok .halt := by decide
theorem test_decode_load : decode .standard 0x00000000123456780101 = .ok (.load 1 0x12345678) := by decide
theorem test_decode_add : decode .standard 0x00000002000000010302 = .ok (.add 3 1 2) := by decide
theorem test_decode_sub : decode .standard 0x0000000C0000000B0A03 = .ok (.sub 10 11 12) := by decide
theorem test_decode_mul : decode .standard 0x0000000C0000000B0A04 = .ok (.mul 10 11 12) := by decide
theorem test_decode_div : decode .standard 0x0000000C0000000B0A05 = .ok (.div 10 11 12) := by decide
theorem test_decode_mod : decode .standard 0x0000000C0000000B0A06 = .ok (.mod 10 11 12) := by decide
theorem test_decode_cmp : decode .standard 0x0000000300000002FF07 = .ok (.cmp 2 3) := by decide
theorem test_decode_jmp : decode .standard 0x12345678000010002008 = .ok (.jmp 0x1000) := by decide
theorem test_decode_jeq : decode .standard 0x00000000800000010009 = .ok (.jeq 0x80000001) := by decide
theorem test_decode_jne : decode .standard 0x0000000000000004000A = .ok (.jne 4) := by decide
theorem test_decode_jgt : decode .standard 0x0000000000000004000B = .ok (.jgt 4) := by decide
theorem test_decode_jlt : decode .standard 0x0000000000000004000C = .ok (.jlt 4) := by decide
theorem test_decode_jge : decode .standard 0x0000000000000004000D = .ok (.jge 4) := by decide
theorem test_decode_push : decode .standard 0x0000000000000000010E = .ok (.push 1) := by decide
theorem test_decode_pop : decode .standard 0x1234567812345678030F = .ok (.pop 3) := by decide
theorem test_decode_store : decode .standard 0x00000000000000640110 = .ok (.store 1 100) := by decide
theorem test_decode_loadMem : decode .standard 0x00000000000000640211 = .ok (.loadMem 2 100) := by decide
theorem test_decode_memcpy : decode .standard 0x0000000400000064C812 = .ok (.memcpy 200 100 4) := by decide
theorem test_decode_call : decode .standard 0x00000000000000040013 = .ok (.call 4) := by decide
theorem test_decode_ret : decode .standard 0xDEADBEEF12345678FF14 = .ok .ret := by decide

/-- V-ENC-4, V-ENC-5. -/
theorem test_decode_illegal :
    decode .standard 0x15 = .error (.illegalOpcode 21) ∧ decode .standard 0xFF = .error (.illegalOpcode 255) := by decide

/-- Other numbers of CALL and RET, which a unit may have (R11, C1). -/
def otherNums : OpcodeNums := { call := 0x20, ret := 0x1F }

/-- R93, C1: with them CALL and RET have these bytes, 19 and 20 are illegal, and the source's own numbers are as ever. -/
theorem test_decode_otherNums :
    decode otherNums 0x00000000000000040020 = .ok (.call 4) ∧ decode otherNums 0x1F = .ok .ret ∧
      decode otherNums 0x13 = .error (.illegalOpcode 19) ∧ decode otherNums 0x14 = .error (.illegalOpcode 20) ∧
      decode otherNums 0x0000000400000064C812 = .ok (.memcpy 200 100 4) := by decide

/-- R103, V-ENC-1: the serialized bytes. -/
theorem test_decodeBytes :
    decodeBytes .standard [0x02, 0x03, 0x01, 0, 0, 0, 0x02, 0, 0, 0, 0xAB] = .ok (.add 3 1 2, [0xAB]) := by decide

theorem test_decodeBytes_truncated : decodeBytes .standard [0x02, 0x03, 0x01] = .error (.truncated 3) := by decide

theorem test_decodeTableWord :
    decodeTableWord 80 0x0000000400000064C812 = some (.memcpy 200 100 4) ∧ decodeTableWord 8 0x14 = some .ret ∧
      decodeTableWord 8 0x15 = none := by decide

/-- The step that the host asks about runs the decoded instruction. -/
theorem test_withFetchWord :
    after (step (State.reset.withFetchWord 80 0x00000000123456780101)) (fun t => ok t 1 && t.readReg 1 == 0x12345678) =
      true := by decide

/-! ### Instructions -/

/-- V-LD-1. -/
theorem test_halt : after (exec .halt at5) (fun t => t.engineState == .halted && t.pc == 5 && t.response == some .done &&
    t.count 5 == 1 && t.count 6 == 0) = true := by decide
/-- V-LD-2. -/
theorem test_load : after (exec (.load 15 0xFFFFFFFF) at5) (fun t => ok t 6 && t.readReg 15 == 0xFFFFFFFF) = true := by decide
/-- V-LD-4. -/
theorem test_load_badReg : after (exec (.load 16 1) at5) (fun t => failed t .badRegDest && t.readReg 0 == 0) = true := by decide
/-- V-AR-1, V-AR-14. -/
theorem test_add :
    after (exec (.add 3 1 2) (at5r 0xFFFFFFFF 0 0)) (fun t => ok t 6 && t.readReg 3 == 0xFFFFFFFF) = true ∧
      after (exec (.add 1 1 1) (at5r 6 0 0)) (fun t => ok t 6 && t.readReg 1 == 12) = true := by decide
/-- V-AR-2, V-AR-17, V-AR-18, V-AR-19. -/
theorem test_add_fails :
    after (exec (.add 3 1 2) (at5r 0x80000000 0x80000000 0)) (fun t =>
      failed t .arithOverflow && t.readReg 3 == 0xFFFFFFFF && t.count 5 == 0) = true ∧
      after (exec (.add 1 16 2) (at5r 4 5 6)) (fun t => failed t .badRegOp1 && t.readReg 1 == 4) = true ∧
      after (exec (.add 1 2 0x103) (at5r 4 5 6)) (fun t => failed t .badRegOp2) = true ∧
      after (exec (.add 20 20 0) (at5r 4 5 6)) (fun t => failed t .badRegDest) = true := by decide
/-- V-AR-4, and R176's example: the operands are not swapped. -/
theorem test_sub :
    after (exec (.sub 3 1 2) (at5r 5 5 9)) (fun t => ok t 6 && t.readReg 3 == 0) = true ∧
      after (exec (.sub 3 1 2) (at5r 10 3 9)) (fun t => ok t 6 && t.readReg 3 == 7) = true := by decide
/-- V-AR-3. -/
theorem test_sub_underflow :
    after (exec (.sub 3 1 2) (at5r 3 5 9)) (fun t => failed t .arithUnderflow && t.readReg 3 == 0) = true := by decide
/-- V-AR-5. -/
theorem test_mul : after (exec (.mul 3 1 2) (at5r 0xFFFF 0x10001 0)) (fun t => ok t 6 && t.readReg 3 == 0xFFFFFFFF) = true := by
  decide
/-- V-AR-6. -/
theorem test_mul_overflow :
    after (exec (.mul 3 1 2) (at5r 0x10000 0x10000 0)) (fun t => failed t .arithOverflow && t.readReg 3 == 0xFFFFFFFF) =
      true := by decide
/-- V-AR-8, V-AR-12. -/
theorem test_div :
    after (exec (.div 3 1 2) (at5r 7 2 0)) (fun t => ok t 6 && t.readReg 3 == 3) = true ∧
      after (exec (.div 3 1 2) (at5r 0xFFFFFFFF 0xFFFFFFFF 0)) (fun t => ok t 6 && t.readReg 3 == 1) = true := by decide
/-- V-AR-10, V-AR-20. -/
theorem test_div_fails :
    after (exec (.div 3 1 2) (at5r 7 0 9)) (fun t => failed t .divZero && t.readReg 3 == 9) = true ∧
      after (exec (.div 1 16 2) (at5r 7 0 9)) (fun t => failed t .badRegOp1) = true := by decide
/-- V-AR-9, V-AR-13. -/
theorem test_mod :
    after (exec (.mod 3 1 2) (at5r 7 2 0)) (fun t => ok t 6 && t.readReg 3 == 1) = true ∧
      after (exec (.mod 3 1 2) (at5r 2 7 0)) (fun t => ok t 6 && t.readReg 3 == 2) = true := by decide
/-- V-AR-11. -/
theorem test_mod_zero :
    after (exec (.mod 3 1 2) (at5r 7 0 9)) (fun t => failed t .divZero && t.readReg 3 == 9) = true := by decide
/-- V-CMP-1, V-CMP-2, V-CMP-3. -/
theorem test_cmp :
    after (exec (.cmp 1 2) (at5r 5 5 0)) (fun t => ok t 6 && t.cmpFlag == .equal) = true ∧
      after (exec (.cmp 1 2) (at5r 0xFFFFFFFF 1 0)) (fun t => ok t 6 && t.cmpFlag == .greater) = true ∧
      after (exec (.cmp 1 2) (at5r 1 0xFFFFFFFF 0)) (fun t => ok t 6 && t.cmpFlag == .less) = true := by decide
/-- V-CMP-5. -/
theorem test_cmp_badReg :
    after (exec (.cmp 1 16) (at5f .greater)) (fun t => failed t .badRegOp2 && t.cmpFlag == .greater) = true := by decide
/-- V-J-1, V-J-15. -/
theorem test_jmp :
    after (exec (.jmp 2) at5) (fun t => ok t 2) = true ∧ after (exec (.jmp 9) at5) (fun t => ok t 9) = true := by decide
/-- V-J-13. -/
theorem test_jmp_badTarget : after (exec (.jmp 10) at5) (fun t => failed t .badTarget) = true := by decide
/-- V-J-2, V-J-3. -/
theorem test_jeq :
    after (exec (.jeq 2) (at5f .equal)) (fun t => ok t 2) = true ∧
      after (exec (.jeq 2) (at5f .greater)) (fun t => ok t 6) = true := by decide
/-- V-J-14. -/
theorem test_jeq_badTarget : after (exec (.jeq 10) (at5f .greater)) (fun t => failed t .badTarget) = true := by decide
/-- V-J-4, V-J-5. -/
theorem test_jne :
    after (exec (.jne 2) (at5f .less)) (fun t => ok t 2) = true ∧
      after (exec (.jne 2) (at5f .equal)) (fun t => ok t 6) = true := by decide
/-- V-J-6, V-J-7. -/
theorem test_jgt :
    after (exec (.jgt 2) (at5f .greater)) (fun t => ok t 2) = true ∧
      after (exec (.jgt 2) (at5f .equal)) (fun t => ok t 6) = true := by decide
/-- V-J-8, V-J-9. -/
theorem test_jlt :
    after (exec (.jlt 2) (at5f .less)) (fun t => ok t 2) = true ∧
      after (exec (.jlt 2) (at5f .greater)) (fun t => ok t 6) = true := by decide
/-- V-J-10, V-J-11, V-J-12. -/
theorem test_jge :
    after (exec (.jge 2) (at5f .equal)) (fun t => ok t 2) = true ∧
      after (exec (.jge 2) (at5f .greater)) (fun t => ok t 2) = true ∧
      after (exec (.jge 2) (at5f .less)) (fun t => ok t 6) = true := by decide
/-- V-ST-1. -/
theorem test_push :
    after (exec (.push 1) (at5r 42 0 0)) (fun t => ok t 6 && t.stack == [42] && t.readReg 1 == 42) = true := by decide
/-- V-ST-5, V-ST-6. -/
theorem test_push_full :
    after (exec (.push 1) (at5st (List.replicate 16 7))) (fun t => failed t .stackFull && t.sp == 16) = true ∧
      after (exec (.push 16) (at5st (List.replicate 16 7))) (fun t => failed t .badRegDest) = true := by decide
/-- V-ST-2, and the top of a deeper stack. -/
theorem test_pop :
    after (exec (.pop 2) (at5st [42])) (fun t => ok t 6 && t.readReg 2 == 42 && t.sp == 0) = true ∧
      after (exec (.pop 2) (at5st [42, 41])) (fun t => ok t 6 && t.readReg 2 == 42 && t.stack == [41]) = true := by decide
/-- V-ST-3, V-ST-4. -/
theorem test_pop_fails :
    after (exec (.pop 2) (at5r 0 9 0)) (fun t => failed t .stackEmpty && t.readReg 2 == 9) = true ∧
      after (exec (.pop 16) at5) (fun t => failed t .badRegDest) = true := by decide
/-- V-ST-7. -/
theorem test_call : after (exec (.call 2) at5) (fun t => ok t 2 && t.stack == [6]) = true := by decide
/-- V-ST-8, V-ST-9. -/
theorem test_call_fails :
    after (exec (.call 2) (at5st (List.replicate 16 7))) (fun t => failed t .stackFull && t.sp == 16) = true ∧
      after (exec (.call 10) (at5st (List.replicate 16 7))) (fun t => failed t .badTarget) = true := by decide
/-- V-ST-10, V-ST-13. -/
theorem test_ret :
    after (exec .ret (at5st [6])) (fun t => ok t 6 && t.sp == 0) = true ∧
      after (exec .ret { at5st [10] with params := { params with retCheckTarget := false } }) (fun t =>
        ok t 10 && t.sp == 0) = true := by decide
/-- V-ST-11, V-ST-12. -/
theorem test_ret_fails :
    after (exec .ret at5) (fun t => failed t .stackEmpty) = true ∧
      after (exec .ret (at5st [10])) (fun t => failed t .badReturn && t.stack == [10]) = true := by decide
/-- V-MEM-1, V-MEM-3. -/
theorem test_store :
    after (exec (.store 1 100) (at5r 0xDEADBEEF 0 0)) (fun t =>
      ok t 6 && t.mem == [(100, 0xEF), (101, 0xBE), (102, 0xAD), (103, 0xDE)] &&
        t.events.head? == some (.memAccess 100 true 4 0xDEADBEEF)) = true ∧
      after (exec (.store 1 65532) (at5r 1 0 0)) (fun t =>
        ok t 6 && t.mem == [(65532, 1), (65533, 0), (65534, 0), (65535, 0)]) = true := by decide
/-- V-MEM-4, V-MEM-9. -/
theorem test_store_fails :
    after (exec (.store 1 65533) (at5r 1 0 0)) (fun t => failed t .memBounds && t.mem == []) = true ∧
      after (exec (.store 16 0xFFFFFFFF) at5) (fun t => failed t .badRegDest) = true := by decide
/-- V-MEM-2. -/
theorem test_loadMem :
    after (exec (.loadMem 2 100) (at5m [(100, 0xEF), (101, 0xBE), (102, 0xAD), (103, 0xDE)])) (fun t =>
      ok t 6 && t.readReg 2 == 0xDEADBEEF && t.events.head? == some (.memAccess 100 false 4 0xDEADBEEF)) = true := by decide
/-- V-MEM-5, V-MEM-6. -/
theorem test_loadMem_fails :
    after (exec (.loadMem 2 0xFFFFFFFF) (at5r 0 9 0)) (fun t => failed t .memBounds && t.readReg 2 == 9) = true ∧
      after (exec (.loadMem 2 0xFFFFFFFC) at5) (fun t => failed t .memBounds) = true := by decide

/-- `at5r` in the other byte order (log 23). -/
def at5big (x1 : Word) (m : Memory) : State :=
  { (at5r x1 0 0).setMem m with params := { params with dataEndian := .big } }

/-- Log 23: the lowest address holds bits 31:24. -/
theorem test_bigEndian :
    after (exec (.store 1 100) (at5big 0xDEADBEEF [])) (fun t =>
      ok t 6 && t.mem == [(100, 0xDE), (101, 0xAD), (102, 0xBE), (103, 0xEF)]) = true ∧
      after (exec (.loadMem 2 100) (at5big 0 [(100, 0xDE), (101, 0xAD), (102, 0xBE), (103, 0xEF)])) (fun t =>
        ok t 6 && t.readReg 2 == 0xDEADBEEF) = true := by decide

/-- `mem[0..3] = 01 02 03 04`. -/
def four : Memory := [(0, 1), (1, 2), (2, 3), (3, 4)]

/-- V-CPY-3, V-CPY-4, V-CPY-1. -/
theorem test_memcpy :
    after (exec (.memcpy 1 0 3) (at5m four)) (fun t => ok t 6 && t.mem == [(0, 1), (1, 1), (2, 2), (3, 3)]) = true ∧
      after (exec (.memcpy 0 1 3) (at5m four)) (fun t => ok t 6 && t.mem == [(0, 2), (1, 3), (2, 4), (3, 4)]) = true ∧
      after (exec (.memcpy 200 0xFFFFFFFF 0) (at5m four)) (fun t => ok t 6 && t.mem == four) = true := by decide
/-- V-CPY-6, V-CPY-8, V-CPY-10, V-CPY-12. -/
theorem test_memcpy_fails :
    after (exec (.memcpy 0 65532 4) (at5m four)) (fun t => failed t .copyBounds && t.mem == four) = true ∧
      after (exec (.memcpy 0 65536 1) at5) (fun t => failed t .copyBounds) = true ∧
      after (exec (.memcpy 255 0 0xFFFFFFFF) at5) (fun t => failed t .copyBounds) = true ∧
      after (exec (.memcpy 16 2 3) { at5 with params := { params with memcpyFields := .registerIndirect } })
        (fun t => failed t .badRegDest) = true := by decide
/-- V-CPY-11, with fewer bytes, and V-CPY-6 under `RANGE`. -/
theorem test_memcpy_parameters :
    after (exec (.memcpy 1 2 3)
      { (at5r 300 1 2).setMem four with params := { params with memcpyFields := .registerIndirect } })
      (fun t => ok t 6 && t.mem == four ++ [(300, 2), (301, 3)]) = true ∧
      after (exec (.memcpy 0 3 1)
        { at5m four with cfgMemSize := 4, params := { params with memcpyBound := .range } })
        (fun t => ok t 6 && t.mem == [(0, 4), (1, 2), (2, 3), (3, 4)]) = true := by decide

/-! ### Run loop, status, host commands -/

/-- V-ILL-1. -/
theorem test_illegal_opcode :
    after (step (fresh 0x15)) (fun t => t.engineState == .failed && t.err == { valid := true, kind := 4, cause := 8, pc := 0, opc := 0x15 } &&
      t.lastValid && t.lastInsn == 0x15) = true := by decide

/-- V-PC-1: the loop test after the last instruction. -/
theorem test_runs_off_the_end :
    after (step (running [encode .standard (.load 1 1)] 1)) (fun t =>
      t.engineState == .halted && t.response == some .done && t.pc == 1 && !t.lastValid) = true := by decide

/-- V-PC-3, V-PC-4: the 1001st dispatch of `JMP 0` fills the cache, the 1000th does not. -/
theorem test_hot_path :
    after (step { fresh (encode .standard (.jmp 0)) with execCount := [1000] }) (fun t =>
      t.icache == [(0, encode .standard (.jmp 0))] && t.count 0 == 1001) = true ∧
      after (step { fresh (encode .standard (.jmp 0)) with execCount := [999] }) (fun t => t.icache == []) = true ∧
      after (step { fresh (encode .standard (.jmp 0)) with execCount := [BitVec.allOnes 32], params := { params with icacheEntries := 0 } })
        (fun t => t.icache == [] && t.count 0 == BitVec.allOnes 32) = true := by decide

/-- The end state of program P4: `STATUS = 0x000F864C`; and a flag of -1 in state `Idle`. -/
theorem test_status_word :
    State.statusWord { idle with engineState := .failed, lastValid := true,
                                 err := { valid := true, kind := 4, cause := 6, pc := 3, opc := 0x0F } } = 0x000F864C ∧
      State.statusWord (idle.setCmpFlag .less) = 0x00006000 := by decide

/-- `idle` with one command waiting. -/
def asked (s : State) (c : HostCmd) : State := { s with pending := [c] }

/-- V-HOST-1, V-HOST-3. -/
theorem test_init :
    after (step (asked at5.teardown (.init 0))) (fun t =>
      !t.live && t.response == some (.failure .invalidConfiguration .badConfig)) = true ∧
      after (step (asked at5.teardown (.init (2 ^ 32)))) (fun t =>
        t.live && t.engineState == .idle && t.cfgMemSize == 2 ^ 32) = true := by decide

/-- V-HOST-13. -/
theorem test_teardown :
    after (step (asked idle .teardown)) (fun t => !t.live && t.response == some .done) = true ∧
      after (step (asked idle.teardown (.getRegister 0))) (fun t =>
        t.response == some (.failure .invalidConfiguration .noEngine)) = true := by decide

/-- V-HOST-5, V-HOST-11, V-HOST-12. -/
theorem test_loadProgram :
    after (step (asked idle (.loadProgram []))) (fun t =>
      t.engineState == .idle && t.response == some (.failure .invalidInstruction .emptyProgram)) = true ∧
      after (step (asked idle (.loadProgram (List.replicate 11 0)))) (fun t =>
        t.prog == [] && t.response == some (.failure .resourceExhausted .progTooLong)) = true ∧
      after (step (asked { at5r 1 0 0 with engineState := .failed, err := { ErrRecord.clear with valid := true } }
        (.loadProgram [0]))) (fun t =>
          t.engineState == .loaded && t.pc == 0 && !t.err.valid && t.readReg 1 == 1 && t.execCount == [0]) = true := by decide

/-- V-HOST-6, and RUN from `Loaded`. -/
theorem test_run :
    after (step (asked idle .run)) (fun t =>
      t.engineState == .idle && t.response == some (.failure .invalidInstruction .notLoaded)) = true ∧
      after (step (asked { idle with prog := [0], engineState := .loaded, execCount := [0] } .run)) (fun t =>
        t.engineState == .running && t.response == none && t.pending == []) = true := by decide

/-- V-HOST-9, and a register. -/
theorem test_getRegister :
    after (step (asked (idle.writeReg 15 77) (.getRegister 15))) (fun t => t.response == some (.register 77)) = true ∧
      after (step (asked idle (.getRegister 16))) (fun t =>
        t.response == some (.failure .invalidInstruction .badRegIndex)) = true := by decide

/-- R131: nothing has been fetched yet, so there is no last instruction. -/
theorem test_snapshot : idle.snapshot.lastInstruction = none ∧ (idle.pushWord 3).snapshot.stackDepth = 1 := by decide

/-! ### Witnesses: for every statement with hypotheses, values that meet them, each clause at the edge of its range -/

/-- A run that is not the reset state: written memory, a deep enough stack, a cached record, a recorded fetch. -/
def busy : State :=
  { at5 with prog := [encode .standard (.jmp 0), encode .standard (.add 3 1 2), 0x15, encode .standard .halt], pc := 1,
             mem := four, stack := [7, 8],
             lastInsn := encode .standard (.jmp 0), lastValid := true, execCount := [1001, 0, 0, 0],
             icache := [(0, encode .standard (.jmp 0))] }

theorem busy_coherent : busy.CacheCoherent := by unfold State.CacheCoherent; decide

/-- `busy` at its ADD, which overflows. -/
def overflowing : State := (busy.writeReg 1 0xFFFFFFFF).writeReg 2 1

theorem witness_DecodeOfEncodeIsIdentity : OpcodeNums.standard.Legal ∧ otherNums.Legal := by
  unfold OpcodeNums.Legal; decide

theorem witness_EncodeOfDecodeKeepsUsedFields : decode .standard 0xDEADBEEF12345678FF14 = .ok .ret := by decide

theorem witness_IgnoredFieldsDoNotMatter :
    opcodeField 0x0000000300000002FF07 = opcodeField 0x00000003000000020007 ∧
      ∀ o : Opcode, o.code .standard = opcodeField 0x0000000300000002FF07 →
        (o.usesDest = true → destField 0x0000000300000002FF07 = destField 0x00000003000000020007) ∧
          (o.usesOperand1 = true → operand1Field 0x0000000300000002FF07 = operand1Field 0x00000003000000020007) ∧
          (o.usesOperand2 = true → operand2Field 0x0000000300000002FF07 = operand2Field 0x00000003000000020007) :=
  ⟨by decide, fun o => by cases o <;> decide⟩

theorem witness_OpcodeByteAloneDecidesLegality :
    (opcodeField 0x12).toNat ≤ 18 ∧ opcodeField 0x20 = otherNums.call ∧ opcodeField 0x1F = otherNums.ret ∧
      UnassignedOpcode otherNums (opcodeField 0x13) ∧ UnassignedOpcode .standard (opcodeField 0x15) := by
  unfold UnassignedOpcode; decide

theorem witness_SerializedProgramReadsBack : ([0x14, 0x15] : List Record)[1]? = some 0x15 ∧ 9 < 10 := by decide

theorem witness_StepRunsTheDecodedInstruction :
    busy.engineState = .running ∧ busy.CacheCoherent ∧ busy.prog[busy.pc.toNat]? = some (encode .standard (.add 3 1 2)) ∧
      decode busy.params.opcodes (encode .standard (.add 3 1 2)) = .ok (.add 3 1 2) :=
  ⟨rfl, busy_coherent, by decide, by decide⟩

theorem witness_IllegalOpcodeFailsTheRun :
    (busy.setPc 2).engineState = .running ∧ (busy.setPc 2).CacheCoherent ∧
      (busy.setPc 2).prog[(busy.setPc 2).pc.toNat]? = some 0x15 ∧
      UnassignedOpcode (busy.setPc 2).params.opcodes (opcodeField 0x15) :=
  ⟨rfl, busy_coherent, by decide, by unfold UnassignedOpcode; decide⟩

theorem witness_RunningOffTheEndHalts :
    (busy.setPc 4).engineState = .running ∧ (busy.setPc 4).progLen ≤ (busy.setPc 4).pc.toNat := by decide

theorem witness_NoCommandIsTakenDuringARun : (asked busy .teardown).engineState = .running := rfl

theorem witness_NoCommandIsTakenDuringARun_goesOn :
    after (step (busy.setPc 0)) (fun t => t.engineState == .running) = true := by decide

theorem witness_WaitingUnitKeepsItsState : idle.engineState ≠ .running ∧ idle.pending = [] := by decide

theorem witness_LoadFollowsItsRule : 16 ≤ (16 : Byte).toNat ∧ (15 : Byte).toNat < 16 := by decide

/-- For every statement that uses `ChecksThreeRegs`. -/
theorem witness_ChecksThreeRegs :
    16 ≤ (16 : Byte).toNat ∧ ((15 : Byte).toNat < 16 ∧ 16 ≤ (16 : Word).toNat) ∧
      ((15 : Byte).toNat < 16 ∧ (15 : Word).toNat < 16 ∧ 16 ≤ (16 : Word).toNat) := by decide

theorem witness_AddFollowsItsRule :
    (3 : Byte).toNat < 16 ∧
      (((at5r 0xFFFFFFFE 1 0).readReg 1).toNat + ((at5r 0xFFFFFFFE 1 0).readReg 2).toNat ≤ 0xFFFFFFFF) ∧
      0xFFFFFFFF < ((at5r 0xFFFFFFFF 1 0).readReg 1).toNat + ((at5r 0xFFFFFFFF 1 0).readReg 2).toNat := by decide

theorem witness_SubFollowsItsRule :
    ((at5r 5 5 0).readReg 2).toNat ≤ ((at5r 5 5 0).readReg 1).toNat ∧
      ((at5r 4 5 0).readReg 1).toNat < ((at5r 4 5 0).readReg 2).toNat := by decide

theorem witness_MulFollowsItsRule :
    ((at5r 0xFFFF 0x10001 0).readReg 1).toNat * ((at5r 0xFFFF 0x10001 0).readReg 2).toNat ≤ 0xFFFFFFFF ∧
      0xFFFFFFFF < ((at5r 0x10000 0x10000 0).readReg 1).toNat * ((at5r 0x10000 0x10000 0).readReg 2).toNat := by decide

theorem witness_DivFollowsItsRule : ((at5r 7 0 0).readReg 2).toNat = 0 ∧ ((at5r 7 1 0).readReg 2).toNat ≠ 0 := by decide

theorem witness_ModFollowsItsRule : ((at5r 7 0 0).readReg 2).toNat = 0 ∧ ((at5r 7 1 0).readReg 2).toNat ≠ 0 := by decide

theorem witness_CmpFollowsItsRule :
    16 ≤ (16 : Word).toNat ∧ ((15 : Word).toNat < 16 ∧ 16 ≤ (16 : Word).toNat) ∧ (15 : Word).toNat < 16 := by decide

theorem witness_JmpFollowsItsRule : at5.progLen ≤ (10 : Word).toNat ∧ (9 : Word).toNat < at5.progLen := by decide

theorem witness_ConditionalJumpsFollowTheirRules :
    at5.progLen ≤ (10 : Word).toNat ∧ (9 : Word).toNat < at5.progLen ∧
      ((at5f .equal).cmpFlag = .equal ∧ (at5f .less).cmpFlag ≠ .equal) ∧
      ((at5f .greater).cmpFlag = .greater ∧ (at5f .equal).cmpFlag ≠ .greater) ∧
      ((at5f .less).cmpFlag = .less ∧ (at5f .equal).cmpFlag ≠ .less) ∧
      ¬ ((at5f .less).cmpFlag = .equal ∨ (at5f .less).cmpFlag = .greater) := by decide

theorem witness_JumpAfterCmpComparesUnsigned :
    (15 : Word).toNat < 16 ∧ (1 : Word).toNat < 16 ∧ (9 : Word).toNat < at5.progLen := by decide

theorem witness_PushFollowsItsRule :
    16 ≤ (16 : Byte).toNat ∧ ((15 : Byte).toNat < 16 ∧ (at5st (List.replicate 16 7)).sp = params.stackCapacity) ∧
      (at5st (List.replicate 15 7)).sp ≠ params.stackCapacity := by decide

theorem witness_PopFollowsItsRule :
    16 ≤ (16 : Byte).toNat ∧ ((15 : Byte).toNat < 16 ∧ at5.sp = 0) ∧ (at5st [42]).stack = 42 :: [] := by decide

theorem witness_CallFollowsItsRule :
    at5.progLen ≤ (10 : Word).toNat ∧
      ((9 : Word).toNat < at5.progLen ∧ (at5st (List.replicate 16 7)).sp = params.stackCapacity) ∧
      (at5st (List.replicate 15 7)).sp ≠ params.stackCapacity := by decide

theorem witness_RetFollowsItsRule :
    at5.sp = 0 ∧ ((at5st [10]).stack = 10 :: [] ∧ params.retCheckTarget = true ∧ at5.progLen ≤ (10 : Word).toNat) ∧
      ((at5st [9]).stack = 9 :: [] ∧ (9 : Word).toNat < at5.progLen) := by decide

theorem witness_PopTakesBackWhatPushPut :
    (15 : Byte).toNat < 16 ∧ (0 : Byte).toNat < 16 ∧ (at5st (List.replicate 15 7)).sp ≠ params.stackCapacity := by decide

theorem witness_RetReturnsBehindTheCall :
    (9 : Word).toNat < at5.progLen ∧ at5.sp ≠ params.stackCapacity ∧ ((at5.setPc 8).pc + 1).toNat < at5.progLen ∧
      params.retCheckTarget = true ∧ ((at5.setPc 9).pc + 1).toNat = at5.progLen := by decide

theorem witness_StoreFollowsItsRule :
    16 ≤ (16 : Byte).toNat ∧ ((15 : Byte).toNat < 16 ∧ at5.cfgMemSize < (65533 : Word).toNat + 4) ∧
      (65532 : Word).toNat + 4 ≤ at5.cfgMemSize ∧ at5.params.dataEndian = .little := by decide

theorem witness_LoadMemFollowsItsRule :
    16 ≤ (16 : Byte).toNat ∧ ((15 : Byte).toNat < 16 ∧ at5.cfgMemSize < (65533 : Word).toNat + 4) ∧
      (65532 : Word).toNat + 4 ≤ at5.cfgMemSize ∧ at5.params.dataEndian = .little := by decide

theorem witness_StoreThenLoadGivesTheValueBack :
    (15 : Byte).toNat < 16 ∧ (0 : Byte).toNat < 16 ∧ (65532 : Word).toNat + 4 ≤ at5.cfgMemSize := by decide

theorem witness_MemcpyMovesItsBlock :
    at5.params.memcpyFields = .positional ∧ ¬ CopyAllowed at5 0 65532 4 ∧ CopyAllowed at5 0 65531 4 ∧ CopyAllowed at5 255 0 1 := by
  unfold CopyAllowed; decide

/-- `at5` with the alternative parameters. -/
def indirect : State :=
  { at5 with params := { params with memcpyFields := .registerIndirect, memcpyBound := .range, retCheckTarget := false } }

theorem witness_IndirectMemcpyMovesItsBlock :
    indirect.params.memcpyFields = .registerIndirect ∧ ¬ CopyAllowed indirect 0 65533 4 ∧ CopyAllowed indirect 0 65532 4 := by
  unfold CopyAllowed; decide

theorem witness_RetFollowsItsRule_unchecked : indirect.params.retCheckTarget = false := rfl

theorem witness_BadRegisterIndexAlwaysFails :
    Instr.wellFormed at5.params.memcpyFields (.add 15 16 2) = false ∧
      Instr.wellFormed indirect.params.memcpyFields (.memcpy 16 0 0) = false := by decide

theorem witness_OnlyCmpWritesTheFlag : (∃ t, exec (.add 3 1 2) at5 = .next t) ∧ ∀ a b, Instr.add 3 1 2 ≠ .cmp a b :=
  ⟨⟨_, rfl⟩, fun _ _ => Instr.noConfusion⟩

theorem witness_OnlyTheNamedRegisterIsWritten :
    (∃ t, exec (.add 3 1 2) at5 = .next t) ∧ ∀ d, writtenReg (.add 3 1 2) = some d → d.toNat ≠ (4 : Fin 16).val :=
  ⟨⟨_, rfl⟩, fun d h => by cases h; decide⟩

theorem witness_StackChangesByOneEntry : ∃ t, exec .ret (at5st [6]) = .next t := ⟨_, rfl⟩

theorem witness_OnlyTheStoredRangeIsWritten :
    (∃ t, exec (.store 1 100) at5 = .next t) ∧
      (∀ d n, storedRange at5 (.store 1 100) = some (d, n) → 99 < d ∨ d + n ≤ 99) ∧
      ∀ d n, storedRange at5 (.store 1 100) = some (d, n) → 104 < d ∨ d + n ≤ 104 :=
  ⟨⟨_, rfl⟩, fun d n h => by cases h; decide, fun d n h => by cases h; decide⟩

theorem witness_ARunNeverWritesTheProgram : busy.engineState = .running ∧ ∃ t, step busy = .next t := ⟨rfl, _, rfl⟩

theorem witness_FailureCommitsOnlyTheClamp :
    overflowing.engineState = .running ∧ overflowing.CacheCoherent ∧
      ∃ t, step overflowing = .next t ∧ t.engineState = .failed := ⟨rfl, busy_coherent, _, rfl, by decide⟩

/-- One failing step for each clause: overflow, underflow (a SUB of 1 from 0) and another cause. -/
theorem witness_FailureCommitsOnlyTheClamp_clauses :
    after (step overflowing) (fun t => t.response == some (.failure .integerOverflow .arithOverflow) &&
      t.readReg 3 == 0xFFFFFFFF) = true ∧
      after (step { fresh (encode .standard (.sub 3 1 2)) with regs := (at5r 0 1 7).regs }) (fun t =>
        t.response == some (.failure .integerUnderflow .arithUnderflow) && t.readReg 3 == 0) = true ∧
      after (step (fresh (encode .standard (.add 3 16 2)))) (fun t =>
        t.response == some (.failure .invalidInstruction .badRegOp1)) = true := by decide

theorem witness_SuccessCountsExactlyOnce :
    busy.engineState = .running ∧ busy.pc.toNat < busy.progLen ∧ busy.execCount.length = busy.progLen ∧
      busy.CacheCoherent ∧ after (step busy) (fun t => t.engineState != .failed) = true ∧
      after (step overflowing) (fun t => t.engineState == .failed) = true :=
  ⟨rfl, by decide, rfl, busy_coherent, by decide, by decide⟩

/-- A run about to dispatch `JMP 0` for the 1001st time. -/
def hot : State := { fresh (encode .standard (.jmp 0)) with execCount := [1000] }

theorem witness_MaintenanceInsertsHotPairs :
    hot.engineState = .running ∧ (hot.icache.Pairwise fun c d => c.1 < d.1) ∧
      hot.icache.length ≤ hot.params.icacheEntries ∧
      ∃ t, exec (.jmp 0) hot = .next t ∧ t.engineState = .running ∧ t.pc.toNat % 1000 = 0 ∧
        ∀ ps : List Nat, ps.Nodup →
          (∀ p ∈ ps, p < hot.progLen ∧ 1000 < (t.count p).toNat ∧ ∀ e ∈ hot.icache, e.1 ≠ p) →
          hot.icache.length + ps.length ≤ hot.params.icacheEntries := by
  refine ⟨rfl, by decide, by decide, _, rfl, by decide, by decide, fun ps hnd hps => ?_⟩
  have hz : ∀ p ∈ ps, p = 0 := fun p hp => Nat.lt_one_iff.1 (hps p hp).1
  match ps with
  | [] => decide
  | [_] => exact Nat.le_refl 1
  | p :: q :: qs =>
    rw [hz p (by simp), hz q (by simp)] at hnd
    simp at hnd

theorem witness_EveryStepKeepsTheCacheCoherent : busy.CacheCoherent ∧ ∃ t, step busy = .next t := ⟨busy_coherent, _, rfl⟩

theorem witness_TheCacheIsNotObservable :
    SameButCache busy { busy with execCount := [0, 0, 0, 0], icache := [], params := { busy.params with icacheEntries := 5 } } ∧
      busy.CacheCoherent := ⟨rfl, busy_coherent⟩

theorem busy_inv : busy.Inv where
  paramsLegal := by unfold Params.Legal OpcodeNums.Legal; decide
  stackBounded := by decide
  memSorted := by decide
  memInside := by decide
  memSizeLegal := by decide
  progLoaded := by decide
  pcInside := by decide
  pcAtLoad := by decide
  countsMatch := rfl
  cacheSorted := by decide
  cacheCoherent := busy_coherent
  cacheBounded := by decide
  errClear := fun _ => rfl
  errFailed := by decide
  errNames := fun h => absurd h (by decide)
  noEngine := fun h => absurd h (by decide)
  runOpen := fun _ => rfl

theorem witness_EveryStepKeepsTheInvariant : busy.Inv ∧ ∃ t, step busy = .next t := ⟨busy_inv, _, rfl⟩

/-- `busy` after it has halted. -/
def halted : State := { busy with engineState := .halted }

theorem witness_InitResetsEveryElement :
    (asked halted (.init 0)).engineState ≠ .running ∧ (asked halted (.init 0)).pending = .init 0 :: [] ∧
      (asked halted (.init (2 ^ 32 + 1))).pending = .init (2 ^ 32 + 1) :: [] ∧ 2 ^ 32 < 2 ^ 32 + 1 ∧
      (asked halted (.init 1)).pending = .init 1 :: [] ∧ 1 ≤ 2 ^ 32 ∧
      (asked halted (.init (2 ^ 32))).pending = .init (2 ^ 32) :: [] ∧ 1 ≤ 2 ^ 32 := by decide

theorem witness_InitDrawsMemoryAnew :
    (asked halted (.init 1)).engineState ≠ .running ∧ (asked halted (.init 1)).pending = .init 1 :: [] ∧ 1 ≤ 2 ^ 32 := by
  decide

theorem witness_LoadProgramFollowsItsRule :
    (∀ rs ∈ [[], List.replicate 11 (0 : Record), List.replicate 10 0, [0]],
        (asked halted (.loadProgram rs)).live = true ∧ (asked halted (.loadProgram rs)).engineState ≠ .running ∧
          (asked halted (.loadProgram rs)).pending = .loadProgram rs :: []) ∧
      halted.params.progCapacity < (List.replicate 11 (0 : Record)).length ∧
      (List.replicate 10 (0 : Record)).length ≤ halted.params.progCapacity ∧ 1 ≤ ([0] : List Record).length := by decide

theorem witness_RunStartsOnlyFromLoaded :
    ∀ e ∈ [EngineState.idle, .halted, .failed, .loaded],
      (asked (idle.setEngine e) .run).live = true ∧ (asked (idle.setEngine e) .run).pending = .run :: [] ∧
        (asked (idle.setEngine e) .run).engineState = e := by decide

theorem witness_GetRegisterReadsOneRegister :
    ∀ i ∈ [15, 16],
      (asked halted (.getRegister i)).live = true ∧ (asked halted (.getRegister i)).engineState ≠ .running ∧
        (asked halted (.getRegister i)).pending = .getRegister i :: [] := by decide

theorem witness_SnapshotReadsTheState :
    (asked halted .snapshot).live = true ∧ (asked halted .snapshot).engineState ≠ .running ∧
      (asked halted .snapshot).pending = .snapshot :: [] := by decide

theorem witness_CommandsNeedAnEngine :
    ((asked halted .teardown).engineState ≠ .running ∧ (asked halted .teardown).pending = .teardown :: [] ∧
        (asked halted .teardown).live = true) ∧
      (asked halted.teardown .run).engineState ≠ .running ∧ (asked halted.teardown .run).pending = .run :: [] ∧
      (asked halted.teardown .run).live = false ∧ ∀ n, HostCmd.run ≠ .init n :=
  ⟨by decide, by decide, rfl, rfl, fun _ => HostCmd.noConfusion⟩

theorem witness_FailedCommandsChangeNoState :
    (asked idle .run).engineState ≠ .running ∧ (asked idle .run).pending = .run :: [] ∧
      ∃ t, step (asked idle .run) = .next t ∧ t.response = some (.failure .invalidInstruction .notLoaded) :=
  ⟨by decide, rfl, _, rfl, rfl⟩

theorem witness_BigEndianWordsAreReversed :
    (15 : Byte).toNat < 16 ∧ (at5big 0 []).params.dataEndian = .big ∧
      (65532 : Word).toNat + 4 ≤ (at5big 0 []).cfgMemSize := by decide

end Sys2Proof.Tests
end

section
/-! PROOFS of the family 10_state. The frame of an instruction: what it leaves unchanged however it ends
(spec/10_state.md R23, R30, R31, R35). -/

namespace Sys2Proof.Machine

variable {i : Instr} {s t u : State}

theorem KeepsUnit.progLen (h : KeepsUnit s t) : t.progLen = s.progLen := congrArg List.length h.prog

theorem next_unique {o : Out} (h : o = .next t) (h' : o = .next u) : t = u :=
  Host.Outcome.next.inj (h.symm.trans h')

/-- `Effects` speaks of registers, flag, stack and data memory only. -/
theorem Effects.congr (h : Effects i s u) (hregs : t.regs = u.regs) (hflag : t.cmpFlag = u.cmpFlag)
    (hstack : t.stack = u.stack) (hmem : t.mem = u.mem) (hdraw : t.memDraw = u.memDraw) : Effects i s t where
  cmpFlag hi := hflag.trans (h.cmpFlag hi)
  regs r hr := by rw [← h.regs r hr, State.readReg, hregs, State.readReg]
  stack := by rw [hstack]; exact h.stack
  mem a ha := by rw [← h.mem a ha, readByte_eq, hmem, hdraw, readByte_eq]
  memWf := by rw [hmem]; exact h.memWf
  memInside := by rw [hmem]; exact h.memInside

/-- A clamp (R174) is written to the instruction's own destination register. -/
theorem Clamps.writtenReg {c : Cause} {d : Byte} {v : Word} (h : Clamps i c d v) : writtenReg i = some d := by
  rcases h with ⟨-, -, a, b, rfl | rfl⟩ | ⟨-, -, a, b, rfl⟩ <;> rfl

/-- However an instruction ends, it has written no element of the unit, and no more data than its own rule lets it: a
failure is no exception, as all it can write is its clamped destination. -/
theorem exec_frame (h : exec i s = .next t) : KeepsUnit s t ∧ Effects i s t := by
  cases exec_ends i s with
  | next u n acc same events effects target out =>
    obtain ⟨x, hx, hc, hregs, hflag, hstack, hmem⟩ := advance_completes same n acc events
    obtain rfl := next_unique h (out.trans hx)
    exact ⟨hc.keeps, effects.congr hregs hflag hstack hmem (hc.keeps.memDraw.trans same.keeps.memDraw.symm)⟩
  | stop halt out =>
    obtain ⟨x, hx, hc, hregs, hflag, hstack, hmem⟩ := stop_stops s
    obtain rfl := next_unique h (out.trans hx)
    exact ⟨hc.keeps, (Effects.refl i s).congr hregs hflag hstack hmem hc.keeps.memDraw⟩
  | fail u c run same events written out =>
    obtain ⟨x, hx, hc, hregs, hflag, hstack, hmem⟩ := raise_fails same c events
    obtain rfl := next_unique h (out.trans hx)
    have effects : Effects i s u := by
      rcases written with ⟨rfl, -⟩ | ⟨d, v, hd, hclamp, rfl⟩
      · exact Effects.refl i u
      · exact Effects.of_writeReg hd hclamp.writtenReg v
    exact ⟨hc.keeps, effects.congr hregs hflag hstack hmem (hc.keeps.memDraw.trans same.keeps.memDraw.symm)⟩

/-- Settles O37: the frame of the flag, whichever way the instruction ends. -/
theorem onlyCmpWritesTheFlag : Obligations.OnlyCmpWritesTheFlag := by
  unfold Obligations.OnlyCmpWritesTheFlag
  intro i s t h hi
  exact (exec_frame h).2.cmpFlag hi

/-- Settles O38: the frame of the registers; R174's clamp goes to the named register too. -/
theorem onlyTheNamedRegisterIsWritten : Obligations.OnlyTheNamedRegisterIsWritten := by
  unfold Obligations.OnlyTheNamedRegisterIsWritten
  intro i s t r h hr
  exact (exec_frame h).2.regs r hr

/-- Settles O39: the frame of the stack, without the check that there was room. -/
theorem stackChangesByOneEntry : Obligations.StackChangesByOneEntry := by
  unfold Obligations.StackChangesByOneEntry
  intro i s t h
  rcases (exec_frame h).2.stack with same | ⟨hi, -, pushed⟩ | popped
  · exact .inl same
  · exact .inr (.inl ⟨hi, pushed⟩)
  · exact .inr (.inr popped)

/-- Settles O40: the frame of data memory, by the range the operands name. -/
theorem onlyTheStoredRangeIsWritten : Obligations.OnlyTheStoredRangeIsWritten := by
  unfold Obligations.OnlyTheStoredRangeIsWritten
  intro i s t a h ha
  exact (exec_frame h).2.mem a ha

/-! ### A dispatched record, and a step of a run -/

/-- A dispatched record keeps the unit's elements, the illegal one too. -/
theorem dispatch_keepsUnit {r : Record} (h : s.dispatch r = .next t) : KeepsUnit s t := by
  rcases dispatch_cases s r with ⟨i, -, hd⟩ | ⟨e, -, hd⟩
  · exact (exec_frame (hd.symm.trans h)).1
  · obtain ⟨x, hx, hrej, -⟩ := raise_rejects s .illegalOpcode
    obtain rfl := next_unique h (hd.trans hx)
    exact hrej.keeps

/-- Settles O41: a step of a run runs off the program's end or dispatches one fetched record. -/
theorem aRunNeverWritesTheProgram : Obligations.ARunNeverWritesTheProgram := by
  unfold Obligations.ARunNeverWritesTheProgram
  intro s t hrun h
  rw [step_running hrun] at h
  rcases runStep_cases s with hoff | ⟨r, -, -, hr⟩
  · obtain rfl := next_unique h hoff
    exact ⟨rfl, rfl, rfl, rfl⟩
  · obtain ⟨params, live, -, cfgMemSize, prog, -⟩ := dispatch_keepsUnit (hr.symm.trans h)
    exact ⟨prog, cfgMemSize, params, live⟩

end Sys2Proof.Machine
end

section
/-! PROOFS of the family 10_state. Register indices that name no register (spec/10_state.md R24). -/

namespace Sys2Proof.Machine

variable {i : Instr} {s : State}

/-- A cause of a bad register index (R145). -/
def Cause.IsBadReg (c : Cause) : Prop := c = .badRegDest ∨ c = .badRegOp1 ∨ c = .badRegOp2

/-- The instruction ends before it has written anything, with a cause of a bad register index. -/
def RejectsBadReg (i : Instr) (s : State) : Prop := ∃ c : Cause, c.IsBadReg ∧ exec i s = raise c s

theorem regIndexOk_iff {v : Nat} : regIndexOk v = true ↔ v < 16 := decide_eq_true_iff

theorem regIndexOk_eq_false {v : Nat} : regIndexOk v = false ↔ 16 ≤ v := by
  rw [Bool.eq_false_iff, Ne, regIndexOk_iff, Nat.not_lt]

/-- The three fields of a well-formed instruction of R95's three-register form. -/
theorem threeRegs_eq_false {d : Byte} {a b : Word} :
    (regIndexOk d.toNat && regIndexOk a.toNat && regIndexOk b.toNat) = false ↔
      ¬ (d.toNat < 16 ∧ a.toNat < 16 ∧ b.toNat < 16) := by
  rw [Bool.eq_false_iff, Ne, Bool.and_eq_true, Bool.and_eq_true, regIndexOk_iff, regIndexOk_iff, regIndexOk_iff, and_assoc]

theorem rejectsBadReg_dest (h : exec i s = raise .badRegDest s) : RejectsBadReg i s := ⟨_, .inl rfl, h⟩

/-- Of three register fields the first bad one rejects. -/
theorem rejectsBadReg_threeRegs {d : Byte} {a b : Word} {k : Fin 16 → Fin 16 → Fin 16 → Out}
    (h : ¬ (d.toNat < 16 ∧ a.toNat < 16 ∧ b.toNat < 16)) (hexec : exec i s = withThreeRegs d a b s k) :
    RejectsBadReg i s := by
  rw [withThreeRegs, withDest] at hexec
  by_cases hd : d.toNat < 16
  · rw [withReg_ok hd, withOp1] at hexec
    by_cases ha : a.toNat < 16
    · rw [withReg_ok ha, withOp2, withReg_bad (by omega)] at hexec
      exact ⟨_, .inr (.inr rfl), hexec⟩
    · rw [withReg_bad (by omega)] at hexec
      exact ⟨_, .inr (.inl rfl), hexec⟩
  · rw [withReg_bad (by omega)] at hexec
    exact rejectsBadReg_dest hexec

/-- R24, R96: whatever field of an ill-formed instruction is bad, one of its register checks fails. -/
theorem rejectsBadReg_of_illFormed (h : i.wellFormed s.params.memcpyFields = false) : RejectsBadReg i s := by
  cases i with
  | halt | jmp | jeq | jne | jgt | jlt | jge | call | ret => cases h
  | add => exact rejectsBadReg_threeRegs (threeRegs_eq_false.1 h) (by rw [exec, execAdd])
  | sub => exact rejectsBadReg_threeRegs (threeRegs_eq_false.1 h) (by rw [exec, execSub])
  | mul => exact rejectsBadReg_threeRegs (threeRegs_eq_false.1 h) (by rw [exec, execMul])
  | div => exact rejectsBadReg_threeRegs (threeRegs_eq_false.1 h) (by rw [exec, execDiv])
  | mod => exact rejectsBadReg_threeRegs (threeRegs_eq_false.1 h) (by rw [exec, execMod])
  | load => exact rejectsBadReg_dest (exec_load_badReg s (regIndexOk_eq_false.1 h))
  | push => exact rejectsBadReg_dest (exec_push_badReg s (regIndexOk_eq_false.1 h))
  | pop => exact rejectsBadReg_dest (exec_pop_badReg s (regIndexOk_eq_false.1 h))
  | store => exact rejectsBadReg_dest (exec_store_badReg s (regIndexOk_eq_false.1 h))
  | loadMem => exact rejectsBadReg_dest (exec_loadMem_badReg s (regIndexOk_eq_false.1 h))
  | cmp a b =>
    by_cases ha : a.toNat < 16
    · rw [Instr.wellFormed, regIndexOk_iff.2 ha, Bool.true_and] at h
      exact ⟨_, .inr (.inr rfl), exec_cmp_badOp2 s ha (regIndexOk_eq_false.1 h)⟩
    · exact ⟨_, .inr (.inl rfl), exec_cmp_badOp1 s (Nat.not_lt.1 ha)⟩
  | memcpy d a b =>
    cases hf : s.params.memcpyFields with
    | positional => rw [hf] at h; cases h
    | registerIndirect =>
      rw [hf] at h
      exact rejectsBadReg_threeRegs (threeRegs_eq_false.1 h) (exec_memcpy_indirect s hf)

/-- Settles O36: a failing register check rejects before anything is written. -/
theorem badRegisterIndexAlwaysFails : Obligations.BadRegisterIndexAlwaysFails := by
  unfold Obligations.BadRegisterIndexAlwaysFails
  intro s i h
  obtain ⟨c, hc, hexec⟩ := rejectsBadReg_of_illFormed h
  obtain ⟨t, ht, hrej⟩ := raise_rejects s c
  exact ⟨t, c, hc, hexec.trans ht, hrej⟩

end Sys2Proof.Machine
end

section
/-! PROOFS of the family 10_state. The layout of the status registers (spec/10_state.md R44). -/

namespace Sys2Proof.Machine

/-- A field put between higher and lower ones is cut out at the width of the lower ones. -/
theorem extractLsb'_append_append {h n l : Nat} (hi : BitVec h) (f : BitVec n) (lo : BitVec l) :
    (hi ++ f ++ lo).extractLsb' l n = f := by
  rw [BitVec.extractLsb'_append_eq_of_le (Nat.le_refl l), Nat.sub_self,
    BitVec.extractLsb'_append_eq_of_add_le (by omega), BitVec.extractLsb'_eq_self]

/-- A field of one bit, read as a bit. -/
theorem getLsbD_of_extractLsb' {n k : Nat} {w : BitVec n} {b : Bool} (h : w.extractLsb' k 1 = bitOf b) :
    w.getLsbD k = b := by
  have hbit := congrArg (fun x => x.getLsbD 0) h
  simp only [BitVec.getLsbD_extractLsb', Nat.zero_lt_one, decide_true, Bool.true_and, Nat.add_zero] at hbit
  rw [hbit]
  cases b <;> rfl

/-! ### The fields of STATUS, each above the fields of lower bits -/

section
variable (s : State)

theorem statusWord_state : s.statusWord.extractLsb' 0 3 = s.engineState.code := by
  rw [State.statusWord, BitVec.extractLsb'_append_eq_of_add_le (by decide), BitVec.extractLsb'_eq_self]

theorem statusWord_errValid : s.statusWord.extractLsb' 3 1 = bitOf s.err.valid :=
  extractLsb'_append_append _ _ _

theorem statusWord_errKind : s.statusWord.extractLsb' 4 4 = s.err.kind := by
  rw [State.statusWord]
  iterate 1 rw [BitVec.extractLsb'_append_eq_of_le (by decide)]
  exact extractLsb'_append_append _ _ _

theorem statusWord_errCause : s.statusWord.extractLsb' 8 5 = s.err.cause := by
  rw [State.statusWord]
  iterate 2 rw [BitVec.extractLsb'_append_eq_of_le (by decide)]
  exact extractLsb'_append_append _ _ _

theorem statusWord_cmpFlag : s.statusWord.extractLsb' 13 2 = s.cmpFlag.code := by
  rw [State.statusWord]
  iterate 3 rw [BitVec.extractLsb'_append_eq_of_le (by decide)]
  exact extractLsb'_append_append _ _ _

theorem statusWord_lastValid : s.statusWord.extractLsb' 15 1 = bitOf s.lastValid := by
  rw [State.statusWord]
  iterate 4 rw [BitVec.extractLsb'_append_eq_of_le (by decide)]
  exact extractLsb'_append_append _ _ _

theorem statusWord_errOpc : s.statusWord.extractLsb' 16 8 = s.err.opc := by
  rw [State.statusWord]
  iterate 5 rw [BitVec.extractLsb'_append_eq_of_le (by decide)]
  exact extractLsb'_append_append _ _ _

theorem statusWord_reserved : s.statusWord.extractLsb' 24 8 = 0 := by
  rw [State.statusWord]
  iterate 7 rw [BitVec.extractLsb'_append_eq_of_le (by decide)]
  exact BitVec.extractLsb'_eq_self

end

/-- Settles O57: each field of STATUS is cut out of the fields put together (R44), and its code is R30's or R39's. -/
theorem statusRegistersHaveTheirLayout : Obligations.StatusRegistersHaveTheirLayout := by
  unfold Obligations.StatusRegistersHaveTheirLayout
  intro s
  have hstate : (s.statusRegs.status.extractLsb' 0 3).toNat = s.engineState.code.toNat :=
    congrArg BitVec.toNat (statusWord_state s)
  have hflag : s.statusRegs.status.extractLsb' 13 2 = s.cmpFlag.code := statusWord_cmpFlag s
  refine ⟨hstate.trans ?_, getLsbD_of_extractLsb' (statusWord_errValid s), statusWord_errKind s, statusWord_errCause s,
    hflag.trans ?_, getLsbD_of_extractLsb' (statusWord_lastValid s), statusWord_errOpc s, statusWord_reserved s, rfl,
    BitVec.toNat_ofNat _ _, BitVec.toNat_ofNat _ _, BitVec.toNat_ofNat _ _, rfl, rfl⟩
  · cases s.engineState <;> rfl
  · cases s.cmpFlag <;> rfl

end Sys2Proof.Machine
end

section
/-! PROOFS of the family 10_state. The invariant: what a step of a run and what a host command must show for it. -/

namespace Sys2Proof.Machine

/-! ### The invariant's clauses about what an instruction writes -/

/-- The clauses of `Inv` about the stack, data memory, the counters and the cache, which hold in every engine state. -/
structure State.DataInv (s : State) : Prop where
  stackBounded : s.sp ≤ s.params.stackCapacity
  memSorted : s.mem.wf
  memInside : ∀ c ∈ s.mem, c.1 < s.cfgMemSize
  countsMatch : s.execCount.length = s.progLen
  cacheSorted : s.icache.Pairwise fun c d => c.1 < d.1
  cacheCoherent : s.CacheCoherent
  cacheBounded : s.icache.length ≤ s.params.icacheEntries

variable {i : Instr} {s t : State}

theorem State.Inv.data (hs : s.Inv) : s.DataInv := { hs with }

theorem exec_execCount_length (h : exec i s = .next t) : t.execCount.length = s.execCount.length := by
  obtain ⟨x, hx, ⟨n, acc, hc, -⟩ | ⟨-, hc, -⟩ | ⟨c, hc, -⟩⟩ := exec_answers i s
  all_goals obtain rfl := next_unique h hx
  · exact hc.counted.1
  · exact hc.counted.1
  · rw [hc.counted]

/-- R32, R34: a push is only made where there is room. -/
theorem Effects.sp_le (h : Effects i s t) (hs : s.sp ≤ s.params.stackCapacity) : t.sp ≤ s.params.stackCapacity := by
  unfold State.sp at *
  rcases h.stack with same | ⟨-, hroom, v, pushed⟩ | ⟨-, v, popped⟩
  · rw [same]; exact hs
  · rw [State.sp] at hroom
    rw [pushed, List.length_cons]
    omega
  · rw [popped, List.length_cons] at hs
    omega

theorem State.DataInv.exec (hs : s.DataInv) (h : exec i s = .next t) : t.DataInv := by
  obtain ⟨keeps, effects⟩ := exec_frame h
  obtain ⟨coherent, sorted⟩ := exec_cache h
  exact
    { stackBounded := by rw [keeps.params]; exact effects.sp_le hs.stackBounded
      memSorted := effects.memWf hs.memSorted
      memInside := by rw [keeps.cfgMemSize]; exact effects.memInside hs.memInside
      countsMatch := by rw [exec_execCount_length h, hs.countsMatch, keeps.progLen]
      cacheSorted := (sorted hs.cacheSorted).1
      cacheCoherent := coherent hs.cacheCoherent
      cacheBounded := (sorted hs.cacheSorted).2 hs.cacheBounded }

/-! ### A step of a run -/

/-- What a step of a run leaves in the engine state, the error record and the response (R132). -/
inductive State.RunOutcome (t : State) : Prop where
  | goesOn (engine : t.engineState = .running) (err : t.err = ErrRecord.clear) (response : t.response = none)
  | halted (engine : t.engineState = .halted) (err : t.err = ErrRecord.clear)
  | failed (engine : t.engineState = .failed) (valid : t.err.valid = true) (names : t.ErrNamesPc)

section
variable (h : t.RunOutcome)
include h

theorem State.RunOutcome.started : t.engineState ≠ .idle ∧ t.engineState ≠ .loaded := by
  rcases h with ⟨engine, -, -⟩ | ⟨engine, -⟩ | ⟨engine, -, -⟩ <;> simp [engine]

theorem State.RunOutcome.errClear (hvalid : t.err.valid = false) : t.err = ErrRecord.clear := by
  rcases h with ⟨-, err, -⟩ | ⟨-, err⟩ | ⟨-, valid, -⟩
  · exact err
  · exact err
  · simp [valid] at hvalid

theorem State.RunOutcome.errFailed : t.engineState = .failed ↔ t.err.valid = true := by
  rcases h with ⟨engine, err, -⟩ | ⟨engine, err⟩ | ⟨engine, valid, -⟩
  · simp [engine, err, ErrRecord.clear]
  · simp [engine, err, ErrRecord.clear]
  · simp [engine, valid]

theorem State.RunOutcome.errNames (hvalid : t.err.valid = true) : t.ErrNamesPc := by
  rcases h with ⟨-, err, -⟩ | ⟨-, err⟩ | ⟨-, -, names⟩
  · simp [err, ErrRecord.clear] at hvalid
  · simp [err, ErrRecord.clear] at hvalid
  · exact names

theorem State.RunOutcome.runOpen (hrun : t.engineState = .running) : t.response = none := by
  rcases h with ⟨-, -, response⟩ | ⟨engine, -⟩ | ⟨engine, -, -⟩
  · exact response
  · simp [engine] at hrun
  · simp [engine] at hrun

end

/-- R41: while the unit runs no failure is recorded. -/
theorem State.Inv.err_of_running (hs : s.Inv) (hrun : s.engineState = .running) : s.err = ErrRecord.clear :=
  hs.errClear (Bool.eq_false_iff.2 (mt hs.errFailed.2 (by simp [hrun])))

/-- R37, R38: in every engine state but `Idle` there is a program. -/
theorem State.Inv.progLen_ne_zero (hs : s.Inv) (hengine : s.engineState ≠ .idle) : s.progLen ≠ 0 :=
  mt hs.progLoaded.2.2 hengine

/-- R124: in every engine state but `Idle` there is an engine. -/
theorem State.Inv.live_of_engine (hs : s.Inv) (hengine : s.engineState ≠ .idle) : s.live = true :=
  Bool.eq_true_of_not_eq_false (mt hs.noEngine hengine)

/-- The invariant after a step of a run: the elements no instruction writes are as before, and the rest is the caller's to
show. -/
theorem State.Inv.of_run (hs : s.Inv) (hrun : s.engineState = .running) (keeps : KeepsUnit s t) (data : t.DataInv)
    (hpc : s.params.retCheckTarget = true → t.pc.toNat ≤ s.progLen) (outcome : t.RunOutcome) : t.Inv := by
  have hengine : s.engineState ≠ .idle := by simp [hrun]
  obtain ⟨hidle, hloaded⟩ := outcome.started
  exact
    { data with
      paramsLegal := by rw [keeps.params]; exact hs.paramsLegal
      memSizeLegal := by rw [keeps.cfgMemSize, keeps.live]; exact hs.memSizeLegal
      progLoaded := by
        rw [keeps.progLen, keeps.params]
        exact ⟨hs.progLoaded.1, iff_of_false hidle (hs.progLen_ne_zero hengine)⟩
      pcInside := by rw [keeps.progLen, keeps.params]; exact hpc
      pcAtLoad := fun h => absurd h hloaded
      errClear := outcome.errClear
      errFailed := outcome.errFailed
      errNames := outcome.errNames
      noEngine := by simp [keeps.live, hs.live_of_engine hengine]
      runOpen := outcome.runOpen }

/-- R28: a step moves `pc` to the next index or to one inside the program, unless RET's check is off. -/
theorem toNat_next_le {next : Word} (hpc : s.pc.toNat < s.progLen)
    (htarget : next = s.pc + 1 ∨ next.toNat < s.progLen ∨ s.params.retCheckTarget = false)
    (hcheck : s.params.retCheckTarget = true) : next.toNat ≤ s.progLen := by
  rcases htarget with rfl | hin | hoff
  · have := Nat.mod_le (s.pc.toNat + 1) (2 ^ 32)
    rw [BitVec.toNat_add]
    exact Nat.le_trans this hpc
  · exact Nat.le_of_lt hin
  · rw [hcheck] at hoff
    cases hoff

/-- R263: a failure of a fetched instruction leaves a record that names it. -/
theorem FailedWith.outcome {c : Cause} (h : FailedWith s t c) (hrun : c.code.toNat ≤ 13) (hvalid : s.lastValid = true) :
    t.RunOutcome := by
  refine .failed h.engineState (by rw [h.err]) ⟨?_, ?_, h.keeps.lastValid.trans hvalid, c, ?_, ?_, hrun⟩
  · rw [h.err, h.pc]
  · rw [h.err, h.keeps.lastInsn]
  · rw [h.err]
  · rw [h.err]

theorem State.Inv.exec (hs : s.Inv) (hrun : s.engineState = .running) (hvalid : s.lastValid = true)
    (hpc : s.pc.toNat < s.progLen) (h : exec i s = .next t) : t.Inv := by
  have herr := hs.err_of_running hrun
  have stays : t.pc = s.pc → s.params.retCheckTarget = true → t.pc.toNat ≤ s.progLen :=
    fun hstay _ => hstay ▸ Nat.le_of_lt hpc
  have hdata := hs.data.exec h
  have keeps := (exec_frame h).1
  obtain ⟨x, hx, ⟨next, acc, hc, -, htarget⟩ | ⟨-, hc, -⟩ | ⟨c, hc, hcause, -⟩⟩ := exec_answers i s
  all_goals obtain rfl := next_unique h hx
  · exact hs.of_run hrun keeps hdata (fun hcheck => hc.pc ▸ toNat_next_le hpc htarget hcheck)
      (.goesOn (hc.engineState.trans hrun) (hc.err.trans herr) (hc.response.trans (hs.runOpen hrun)))
  · exact hs.of_run hrun keeps hdata (stays hc.pc) (.halted hc.engineState (hc.err.trans herr))
  · exact hs.of_run hrun keeps hdata (stays hc.pc) (hc.outcome hcause hvalid)

/-- R143: an illegal opcode fails with everything but the failure's own elements as it was. -/
theorem State.Inv.illegalOpcode (hs : s.Inv) (hrun : s.engineState = .running) (hvalid : s.lastValid = true)
    (hpc : s.pc.toNat < s.progLen) (h : raise .illegalOpcode s = .next t) : t.Inv := by
  obtain ⟨x, hx, hf, -⟩ := raise_rejects s .illegalOpcode
  have outcome := hf.outcome (by decide) hvalid
  obtain rfl := next_unique h hx
  cases h
  exact hs.of_run hrun hf.keeps { hs.data with } (fun _ => Nat.le_of_lt hpc) outcome

/-- Fetch writes `last_insn` while no error record speaks of it (R140). -/
theorem State.Inv.fetched (hs : s.Inv) (hrun : s.engineState = .running) (r : Record) : (s.clearEvents.fetched r).Inv :=
  { hs with
    errNames := fun hvalid => by
      rw [fetched_err, clearEvents_err, hs.err_of_running hrun] at hvalid
      cases hvalid }

/-- The invariant over one iteration of the run loop (R132). -/
theorem State.Inv.runStep (hs : s.Inv) (hrun : s.engineState = .running) (h : s.runStep = .next t) : t.Inv := by
  rcases runStep_cases s with hoff | ⟨r, hpc, -, hr⟩
  · obtain rfl := next_unique h hoff
    exact hs.of_run hrun ⟨rfl, rfl, rfl, rfl, rfl, rfl, rfl, rfl⟩ { hs.data with } hs.pcInside
      (.halted rfl (hs.err_of_running hrun))
  · rw [hr] at h
    have hfetched := hs.fetched hrun r
    rcases dispatch_cases (s.clearEvents.fetched r) r with ⟨i, -, hd⟩ | ⟨e, -, hd⟩
    · exact hfetched.exec hrun rfl hpc (hd.symm.trans h)
    · exact hfetched.illegalOpcode hrun rfl hpc (hd.symm.trans h)

/-! ### A host command -/

/-- A response changes nothing the invariant speaks of outside a run. -/
theorem State.Inv.respond (hs : s.Inv) (hwaits : s.engineState ≠ .running) (r : Response) : (s.respond r).Inv :=
  { hs with runOpen := fun hrun => absurd hrun hwaits }

/-- R290: an empty unit meets the invariant, with or without an engine (R124). -/
theorem afterInit_inv {p : Params} (hp : p.Legal) {n : Nat} {live : Bool}
    (hn : n ≤ Config.maxMemSize ∧ (live = true → 1 ≤ n)) (draw cacheDraw : Nat) (pending : List HostCmd) (insn : Record) :
    ({ State.afterInit p n draw cacheDraw pending with live := live, lastInsn := insn } : State).Inv where
  paramsLegal := hp
  stackBounded := Nat.zero_le _
  memSorted := .nil
  memInside := by simp [State.afterInit]
  memSizeLegal := hn
  progLoaded := ⟨Nat.zero_le _, by simp [State.afterInit, State.progLen]⟩
  pcInside := fun _ => Nat.le_refl 0
  pcAtLoad := fun _ => rfl
  countsMatch := rfl
  cacheSorted := .nil
  cacheCoherent := by simp [State.afterInit, State.CacheCoherent]
  cacheBounded := Nat.zero_le _
  errClear := fun _ => rfl
  errFailed := by simp [State.afterInit, ErrRecord.clear]
  errNames := by simp [State.afterInit, ErrRecord.clear]
  noEngine := fun _ => rfl
  runOpen := by simp [State.afterInit]

theorem State.Inv.init (hs : s.Inv) (hwaits : s.engineState ≠ .running) (n : Nat) : (s.init n).Inv := by
  unfold State.init
  split
  · exact hs.respond hwaits _
  · exact afterInit_inv hs.paramsLegal (live := true) (by omega) _ _ _ _

theorem State.Inv.teardown (hs : s.Inv) : s.teardown.Inv :=
  afterInit_inv hs.paramsLegal (live := false) (by decide) _ _ _ _

theorem State.Inv.loadRecords (hs : s.Inv) (hlive : s.live = true) {rs : List Record} (hne : rs.length ≠ 0)
    (hfit : rs.length ≤ s.params.progCapacity) : (s.loadRecords rs).Inv :=
  { hs with
    progLoaded := ⟨hfit, by simp [State.progLen, hne]⟩
    pcInside := fun _ => Nat.zero_le _
    pcAtLoad := fun _ => rfl
    countsMatch := List.length_replicate
    cacheSorted := .nil
    cacheCoherent := by simp [State.CacheCoherent]
    cacheBounded := Nat.zero_le _
    errClear := fun _ => rfl
    errFailed := by simp [ErrRecord.clear]
    errNames := by simp [ErrRecord.clear]
    noEngine := by simp [hlive]
    runOpen := by simp }

theorem State.Inv.loadProgram (hs : s.Inv) (hwaits : s.engineState ≠ .running) (hlive : s.live = true)
    (rs : List Record) : (s.loadProgram rs).Inv := by
  unfold State.loadProgram
  split
  · exact hs.respond hwaits _
  · next hne =>
    split
    · exact hs.respond hwaits _
    · next hfit => exact (hs.loadRecords hlive hne (Nat.not_lt.1 hfit)).respond (by simp) _

/-- RUN starts a run from `Loaded`, where no failure is recorded (R126, R128). -/
theorem State.Inv.run (hs : s.Inv) (hwaits : s.engineState ≠ .running) (hlive : s.live = true) : s.run.Inv := by
  unfold State.run
  split
  · next hloaded =>
    have hengine : s.engineState ≠ .idle := by simp [hloaded]
    have hvalid : ¬ s.err.valid = true := mt hs.errFailed.2 (by simp [hloaded])
    exact
      { hs with
        progLoaded := ⟨hs.progLoaded.1, iff_of_false (by simp) (hs.progLen_ne_zero hengine)⟩
        pcAtLoad := by simp
        errFailed := iff_of_false (by simp) hvalid
        noEngine := by simp [hlive]
        runOpen := fun _ => rfl }
  · exact hs.respond hwaits _

theorem State.Inv.getRegister (hs : s.Inv) (hwaits : s.engineState ≠ .running) (n : Nat) : (s.getRegister n).Inv := by
  unfold State.getRegister
  split
  · exact hs.respond hwaits _
  · exact hs.respond hwaits _

theorem State.Inv.command (hs : s.Inv) (hwaits : s.engineState ≠ .running) (c : HostCmd) : (s.command c).Inv := by
  have needsEngine (u : State) (hu : s.live = true → u.Inv) : (if s.live then u else s.reject .noEngine).Inv := by
    split
    · next hlive => exact hu hlive
    · exact hs.respond hwaits _
  cases c with
  | init n => exact hs.init hwaits n
  | teardown => exact needsEngine _ fun _ => hs.teardown
  | loadProgram rs => exact needsEngine _ fun hlive => hs.loadProgram hwaits hlive rs
  | run => exact needsEngine _ fun hlive => hs.run hwaits hlive
  | getRegister n => exact needsEngine _ fun _ => hs.getRegister hwaits n
  | snapshot => exact needsEngine _ fun _ => hs.respond hwaits _

theorem State.Inv.hostStep (hs : s.Inv) (hwaits : s.engineState ≠ .running) : s.hostStep.Inv := by
  cases hp : s.pending with
  | nil => rw [hostStep_none hp]; exact hs
  | cons c cs =>
    rw [hostStep_some hp]
    have htaken : ({ s with pending := cs, events := [] } : State).Inv := { hs with }
    exact htaken.command hwaits c

/-- Settles O49: a step of a run keeps the invariant by the ways a dispatch can end, a host command by its own rule, and a
unit that waits keeps its state. -/
theorem everyStepKeepsTheInvariant : Obligations.EveryStepKeepsTheInvariant := by
  unfold Obligations.EveryStepKeepsTheInvariant
  intro s t hs h
  by_cases hrun : s.engineState = .running
  · exact hs.runStep hrun ((step_running hrun).symm.trans h)
  · obtain rfl := next_unique h (step_waiting hrun)
    exact hs.hostStep hrun

end Sys2Proof.Machine
end

section
/-! PROOFS of the family 20_memory. What STORE and LOAD_MEM do with a word inside data memory, in either byte order
(spec/20_memory.md R62). -/

namespace Sys2Proof.Machine

variable {s : State} {d : Byte} {addr : Word}

/-- R62, R241: STORE inside data memory writes byte `lane k` of the register at `addr + k`, and no other byte. -/
theorem exec_store_readByte (hd : d.toNat < 16) (ha : addr.toNat + 4 ≤ s.cfgMemSize) :
    ∃ t, exec (.store d addr) s = .next t ∧
      (∀ k < 4, t.readByte (addr.toNat + k) = byteOf (s.readReg ⟨d.toNat, hd⟩) (s.params.dataEndian.lane k)) ∧
      KeepsMemBut s t addr.toNat 4 := by
  obtain ⟨t, ht, hc, -, -, -, hmem⟩ :=
    advance_completes ((SameRun.of_setMem s (s.wordWritten addr.toNat (s.readReg ⟨d.toNat, hd⟩))).emit _) (s.pc + 1) [_] rfl
  have hread (x : Nat) : t.readByte x = (s.wordWritten addr.toNat (s.readReg ⟨d.toNat, hd⟩)).read s.memDraw x := by
    rw [readByte_eq, hmem, hc.keeps.memDraw, emit_mem, setMem_mem]
  refine ⟨t, (exec_store s hd ha).trans ht, fun k hk => ?_, fun x hx => ?_⟩
  · rw [hread, State.wordWritten, Memory.read_writeWord, if_pos (by omega), Nat.add_sub_cancel_left]
  · rw [hread, State.wordWritten, Memory.read_writeWord, if_neg (by omega), readByte_eq]

/-- R242: LOAD_MEM inside data memory leaves the word at `addr` in its register. -/
theorem exec_loadMem_readReg (hd : d.toNat < 16) (ha : addr.toNat + 4 ≤ s.cfgMemSize) :
    ∃ t, exec (.loadMem d addr) s = .next t ∧ t.readReg ⟨d.toNat, hd⟩ = s.readWord addr.toNat := by
  obtain ⟨t, ht, -, hregs, -⟩ :=
    advance_completes ((SameRun.of_writeReg s ⟨d.toNat, hd⟩ (s.readWord addr.toNat)).emit _) (s.pc + 1) [_] rfl
  refine ⟨t, (exec_loadMem s hd ha).trans ht, ?_⟩
  rw [State.readReg, hregs, emit_regs, ← State.readReg, readReg_writeReg, if_pos rfl]

/-- With `DATA_ENDIAN` not `LITTLE` a word's lowest address is its most significant byte (log 23). -/
theorem readWord_of_big (hbig : s.params.dataEndian = .big) (a : Nat) :
    s.readWord a = s.readByte a ++ s.readByte (a + 1) ++ s.readByte (a + 2) ++ s.readByte (a + 3) := by
  rw [State.readWord, hbig]
  rfl

/-- Settles O60: in the other order `lane k` is `3 - k`, for the bytes STORE writes and for those LOAD_MEM reads. -/
theorem bigEndianWordsAreReversed : Obligations.BigEndianWordsAreReversed := by
  unfold Obligations.BigEndianWordsAreReversed
  intro s d addr hd hbig ha
  constructor
  · obtain ⟨t, ht, written, kept⟩ := exec_store_readByte hd ha
    rw [hbig] at written
    exact ⟨t, ht, written 0 (by decide), written 1 (by decide), written 2 (by decide), written 3 (by decide), kept⟩
  · obtain ⟨t, ht, loaded⟩ := exec_loadMem_readReg hd ha
    exact ⟨t, ht, loaded.trans (readWord_of_big hbig addr.toNat)⟩

end Sys2Proof.Machine
end

section
/-! PROOFS of the family 30_encoding. The decoder and the encoder (spec/30_encoding.md R90 to R99). -/

namespace Sys2Proof

/-! ### What decode answers -/

theorem decode_of_ofByte {n : OpcodeNums} {w : Record} {o : Opcode} (h : Opcode.ofByte n (opcodeField w) = some o) :
    decode n w = .ok (assemble w o) := by
  unfold decode
  rw [h]

theorem decode_of_ofByte_none {n : OpcodeNums} {w : Record} (h : Opcode.ofByte n (opcodeField w) = none) :
    decode n w = .error (.illegalOpcode (opcodeField w)) := by
  unfold decode
  rw [h]

/-- A record that decodes has the byte of one operation, and is that operation with the record's fields. -/
theorem decode_eq_ok {n : OpcodeNums} {w : Record} {i : Instr} (h : decode n w = .ok i) :
    ∃ o : Opcode, opcodeField w = o.code n ∧ i = assemble w o := by
  cases ho : Opcode.ofByte n (opcodeField w) with
  | some o => exact ⟨o, ofByte_eq_some ho, Except.ok.inj (h.symm.trans (decode_of_ofByte ho))⟩
  | none => exact nomatch h.symm.trans (decode_of_ofByte_none ho)

/-! ### Fields of an instruction's record -/

@[simp] theorem opcode_assemble (w : Record) (o : Opcode) : (assemble w o).opcode = o := by cases o <;> rfl

/-- Laws.EncodedOpcode of every instruction at once. -/
theorem encodedOpcode (i : Instr) : Laws.EncodedOpcode.Statement i := by
  cases i <;> exact Laws.EncodedOpcode.of_pack fun _ => rfl

/-- The record of an instruction has every operand in the field that its operation reads it from (R95). -/
theorem assemble_encode (n : OpcodeNums) (i : Instr) : assemble (encode n i) i.opcode = i := by
  cases i <;> simp [encode, Instr.opcode, assemble]

/-- R95, R98: the record of an assembled instruction has the fields its operation uses, and 0 in the others. -/
theorem encode_assemble (n : OpcodeNums) (w : Record) (o : Opcode) :
    encode n (assemble w o) = pack n o (if o.usesDest then destField w else 0) (if o.usesOperand1 then operand1Field w else 0)
      (if o.usesOperand2 then operand2Field w else 0) := by
  cases o <;> rfl

/-- An instruction is its operation and its record. -/
theorem encode_inj {n : OpcodeNums} {i j : Instr} (hop : i.opcode = j.opcode) (h : encode n i = encode n j) : i = j := by
  rw [← assemble_encode n i, h, hop, assemble_encode]

/-- Settles O1: the opcode byte of the record selects the operation, whose fields hold the operands. -/
theorem decodeOfEncodeIsIdentity : Obligations.DecodeOfEncodeIsIdentity := by
  unfold Obligations.DecodeOfEncodeIsIdentity
  intro n i hn
  obtain ⟨-, hselects⟩ := encodedOpcode i n
  rw [decode_of_ofByte (hselects hn), assemble_encode]

/-- Settles O2: the record decodes to `assemble w o`, whose own record has the used fields of `w` only. -/
theorem encodeOfDecodeKeepsUsedFields : Obligations.EncodeOfDecodeKeepsUsedFields := by
  unfold Obligations.EncodeOfDecodeKeepsUsedFields
  intro n w i h
  obtain ⟨o, hbyte, rfl⟩ := decode_eq_ok h
  rw [encode_assemble, opcode_assemble, hbyte, pack]

/-- R98: what an operation makes of a record depends on the fields it uses alone, since its own record does. -/
theorem assemble_congr {w w' : Record} {o : Opcode} (hd : o.usesDest = true → destField w = destField w')
    (ha : o.usesOperand1 = true → operand1Field w = operand1Field w')
    (hb : o.usesOperand2 = true → operand2Field w = operand2Field w') : assemble w o = assemble w' o := by
  refine encode_inj (n := .standard) (by simp) ?_
  rw [encode_assemble, encode_assemble, ite_congr rfl hd fun _ => rfl, ite_congr rfl ha fun _ => rfl,
    ite_congr rfl hb fun _ => rfl]

/-- Settles O3: the same byte selects the same operation, and that operation reads the fields it uses only. -/
theorem ignoredFieldsDoNotMatter : Obligations.IgnoredFieldsDoNotMatter := by
  unfold Obligations.IgnoredFieldsDoNotMatter
  intro n w w' hbyte hagree
  cases ho : Opcode.ofByte n (opcodeField w) with
  | some o =>
    obtain ⟨hd, ha, hb⟩ := hagree o (ofByte_eq_some ho).symm
    rw [decode_of_ofByte ho, decode_of_ofByte (hbyte ▸ ho), assemble_congr hd ha hb]
  | none => rw [decode_of_ofByte_none ho, decode_of_ofByte_none (hbyte ▸ ho), hbyte]

/-! ### Which bytes are opcodes -/

/-- R92: the first 19 operations of the enumeration are numbered in its order, whatever the numbers of CALL and RET. -/
theorem code_all_get (n : OpcodeNums) (k : Fin 19) : (Opcode.all.get (k.castLE (by decide))).code n = BitVec.ofNat 8 k := by
  fin_cases k <;> rfl

/-- R92, R93: the numbers of the 21 operations. -/
theorem exists_code_iff {n : OpcodeNums} {b : Byte} :
    (∃ o : Opcode, o.code n = b) ↔ b.toNat ≤ 18 ∨ b = n.call ∨ b = n.ret := by
  constructor
  · rintro ⟨o, rfl⟩
    cases o
    case call => exact .inr (.inl rfl)
    case ret => exact .inr (.inr rfl)
    all_goals exact .inl (by simp [Opcode.code])
  · rintro (h | rfl | rfl)
    · exact ⟨_, (code_all_get n ⟨b.toNat, by omega⟩).trans (BitVec.ofNat_toNat 8 b)⟩
    · exact ⟨.call, rfl⟩
    · exact ⟨.ret, rfl⟩

theorem unassignedOpcode_iff {n : OpcodeNums} {b : Byte} :
    Machine.UnassignedOpcode n b ↔ Opcode.ofByte n b = none := by
  rw [ofByte_eq_none, ← not_exists, exists_code_iff, not_or, not_or, Nat.not_le]
  rfl

/-- R93: with the default numbers the operations have the bytes 0 to 20. -/
theorem unassignedOpcode_standard {b : Byte} : Machine.UnassignedOpcode .standard b ↔ 20 < b.toNat := by
  show 18 < b.toNat ∧ b ≠ 19#8 ∧ b ≠ 20#8 ↔ 20 < b.toNat
  bv_omega

/-- Settles O4: a byte decodes exactly if it is some operation's number, as 0 to 18 and the numbers of CALL and RET are. -/
theorem opcodeByteAloneDecidesLegality : Obligations.OpcodeByteAloneDecidesLegality := by
  unfold Obligations.OpcodeByteAloneDecidesLegality
  refine ⟨fun n w => ⟨fun hlegal => ?_, fun hfree => decode_of_ofByte_none (unassignedOpcode_iff.1 hfree)⟩,
    fun b => unassignedOpcode_standard⟩
  cases ho : Opcode.ofByte n (opcodeField w) with
  | some o => exact ⟨assemble w o, decode_of_ofByte ho, by rw [opcode_assemble, ofByte_eq_some ho]⟩
  | none =>
    obtain ⟨o, hcode⟩ := exists_code_iff.2 hlegal
    exact absurd hcode (ofByte_eq_none.1 ho o)

/-- Settles O6: each word is a closed value, so the decoder is run on it. -/
theorem wordsOfTheSpecDecode : Obligations.WordsOfTheSpecDecode := by
  unfold Obligations.WordsOfTheSpecDecode
  decide

end Sys2Proof
end

section
/-! PROOFS of the family 30_encoding. The serialized form of a program (spec/30_encoding.md R91). -/

namespace Sys2Proof

theorem serializeProgram_cons (w : Record) (rs : List Record) :
    serializeProgram (w :: rs) = serialize w ++ serializeProgram rs := List.flatMap_cons

theorem length_serializeProgram (rs : List Record) : (serializeProgram rs).length = 10 * rs.length := by
  induction rs with
  | nil => rfl
  | cons w rs ih =>
    rw [serializeProgram_cons, List.length_append, length_serialize, ih, List.length_cons]
    omega

theorem getElem?_serialize (w : Record) {k : Nat} (hk : k < 10) : (serialize w)[k]? = some (w.extractLsb' (8 * k) 8) := by
  rw [serialize, List.getElem?_map, List.getElem?_range hk, Option.map_some]

/-- R91: byte `k` of record `i` stands at offset `10i + k`, behind the 10 bytes of each earlier record. -/
theorem getElem?_serializeProgram {k : Nat} (hk : k < 10) {w : Record} (rs : List Record) (i : Nat) (h : rs[i]? = some w) :
    (serializeProgram rs)[10 * i + k]? = some (w.extractLsb' (8 * k) 8) := by
  induction rs generalizing i with
  | nil => exact nomatch h
  | cons r rs ih =>
    rw [serializeProgram_cons]
    cases i with
    | zero =>
      obtain rfl : r = w := Option.some.inj h
      rw [Nat.mul_zero, Nat.zero_add, List.getElem?_append_left hk, getElem?_serialize _ hk]
    | succ i =>
      rw [List.getElem?_append_right (by rw [length_serialize]; omega), length_serialize,
        show 10 * (i + 1) + k - 10 = 10 * i + k by omega]
      exact ih i h

theorem deserialize_serializeProgram (rs : List Record) : deserialize (serializeProgram rs) = .ok rs := by
  induction rs with
  | nil => simp [serializeProgram, deserialize]
  | cons w rs ih => rw [serializeProgram_cons, deserialize_serialize_append w _ ih]

/-- Settles O5, each clause by induction on the list of records. -/
theorem serializedProgramReadsBack : Obligations.SerializedProgramReadsBack := by
  unfold Obligations.SerializedProgramReadsBack
  exact fun rs =>
    ⟨length_serializeProgram rs, fun i _ _ h hk => getElem?_serializeProgram hk rs i h, deserialize_serializeProgram rs⟩

end Sys2Proof
end

section
/-! PROOFS of the family 40_fetch_dispatch. A step of a run: fetch, dispatch, and the three ways it ends
(spec/40_fetch_dispatch.md R132 to R144). -/

namespace Sys2Proof.Machine

variable {i : Instr} {s t : State} {w r : Record}

/-! ### Fetch -/

/-- R132, R140: a step of a run at a record of the program dispatches it, whether or not the cache holds it. -/
theorem step_dispatches (hrun : s.engineState = .running) (hc : s.CacheCoherent) (hw : s.prog[s.pc.toNat]? = some w) :
    step s = (s.clearEvents.fetched w).dispatch w := by
  obtain ⟨hpc, -⟩ := List.getElem?_eq_some_iff.1 hw
  rw [step_running hrun, runStep_fetched hpc ((recordAt_eq hc).trans hw)]

/-- Settles O7: the fetched record is decoded with the unit's own opcode numbers. -/
theorem stepRunsTheDecodedInstruction : Obligations.StepRunsTheDecodedInstruction := by
  unfold Obligations.StepRunsTheDecodedInstruction
  intro s w i hrun hc hw hi
  rw [step_dispatches hrun hc hw, dispatch_ok (by rw [params_fetched]; exact hi), fetched_eq]

/-- Settles O8: an unassigned byte decodes to no instruction, and the dispatch rejects. -/
theorem illegalOpcodeFailsTheRun : Obligations.IllegalOpcodeFailsTheRun := by
  unfold Obligations.IllegalOpcodeFailsTheRun
  intro s w hrun hc hw hfree
  obtain ⟨t, ht, hrej⟩ := raise_rejects (s.clearEvents.fetched w) .illegalOpcode
  have hdec := decode_of_ofByte_none (unassignedOpcode_iff.1 hfree)
  refine ⟨t, ?_, hrej⟩
  rw [step_dispatches hrun hc hw, dispatch_illegal (by rw [params_fetched]; exact hdec), ht]

/-- Settles O9: at the end of the program the run loop stops before it fetches. -/
theorem runningOffTheEndHalts : Obligations.RunningOffTheEndHalts := by
  unfold Obligations.RunningOffTheEndHalts
  intro s hrun hoff
  rw [step_running hrun, runStep_offEnd hoff]
  rfl

/-! ### How an instruction ends -/

/-- Settles O13: `exec_answers` without what the instruction writes. -/
theorem everyInstructionEndsOneWay : Obligations.EveryInstructionEndsOneWay := by
  unfold Obligations.EveryInstructionEndsOneWay
  intro i s
  obtain ⟨t, ht, ⟨next, acc, hc, -⟩ | ⟨hi, hc, -⟩ | ⟨c, hc, -⟩⟩ := exec_answers i s
  · exact ⟨t, ht, .inl ⟨next, acc, hc⟩⟩
  · exact ⟨t, ht, .inr (.inl ⟨hi, hc⟩)⟩
  · exact ⟨t, ht, .inr (.inr ⟨c, hc⟩)⟩

theorem KeepsRegs.of_eq (h : t.regs = s.regs) : KeepsRegs s t := fun r => by rw [State.readReg, h, State.readReg]

theorem KeepsMem.of_eq (h : t.mem = s.mem) (hdraw : t.memDraw = s.memDraw) : KeepsMem s t :=
  fun a => by rw [readByte_eq, h, hdraw, readByte_eq]

/-- Settles O14: HALT is `Stop`, which writes no data. -/
theorem haltStopsTheRun : Obligations.HaltStopsTheRun := by
  unfold Obligations.HaltStopsTheRun
  intro s
  obtain ⟨t, ht, hstop, hregs, hflag, hstack, hmem⟩ := stop_stops s
  exact ⟨t, ht, hstop, .of_eq hregs, hflag, hstack, .of_eq hmem hstop.keeps.memDraw⟩

/-- A dispatched record ends with `Next(t)`, `Stop` or one failure, an illegal opcode's among them (R132, R143). -/
theorem dispatch_ends (s : State) (r : Record) :
    ∃ t, s.dispatch r = .next t ∧ ((∃ next acc, Completed s t next acc) ∨ Stopped s t ∨ ∃ c, FailedWith s t c) := by
  rcases dispatch_cases s r with ⟨i, -, hd⟩ | ⟨e, -, hd⟩
  · obtain ⟨t, ht, hc | ⟨-, hc⟩ | hc⟩ := everyInstructionEndsOneWay i s
    · exact ⟨t, hd.trans ht, .inl hc⟩
    · exact ⟨t, hd.trans ht, .inr (.inl hc)⟩
    · exact ⟨t, hd.trans ht, .inr (.inr hc)⟩
  · obtain ⟨t, ht, hrej, -⟩ := raise_rejects s .illegalOpcode
    exact ⟨t, hd.trans ht, .inr (.inr ⟨_, hrej⟩)⟩

/-- Settles O10: a run takes no command, and gives a response only where it ends. -/
theorem noCommandIsTakenDuringARun : Obligations.NoCommandIsTakenDuringARun := by
  unfold Obligations.NoCommandIsTakenDuringARun
  intro s hrun
  rw [step_running hrun]
  rcases runStep_cases s with hoff | ⟨r, -, -, hr⟩
  · exact ⟨_, hoff, rfl, by simp⟩
  · obtain ⟨t, ht, ends⟩ := dispatch_ends (s.clearEvents.fetched r) r
    refine ⟨t, hr.trans ht, ?_⟩
    rcases ends with ⟨next, acc, hc⟩ | hc | ⟨c, hc⟩
    · exact ⟨hc.keeps.pending, fun _ => hc.response⟩
    · exact ⟨hc.keeps.pending, fun h => by simp [hc.engineState] at h⟩
    · exact ⟨hc.keeps.pending, fun h => by simp [hc.engineState] at h⟩

/-! ### Counting -/

/-- R154: after a counted dispatch inside the program the counter of its index has gone up, and no other. -/
theorem Counted.at_pc (h : Counted s t) (hpc : s.pc.toNat < s.execCount.length) :
    (t.count s.pc.toNat).toNat = min ((s.count s.pc.toNat).toNat + 1) (2 ^ 32 - 1) ∧
      ∀ p, p ≠ s.pc.toNat → t.count p = s.count p := by
  obtain ⟨-, hcount⟩ := h
  refine ⟨(hcount _).trans (if_pos ⟨rfl, hpc⟩), fun p hp => BitVec.eq_of_toNat_eq ?_⟩
  exact (hcount p).trans (if_neg fun h => hp h.1)

/-- Settles O43: `Next` and `Stop` count, a failure does not. -/
theorem successCountsExactlyOnce : Obligations.SuccessCountsExactlyOnce := by
  unfold Obligations.SuccessCountsExactlyOnce
  intro s hrun hpc hlen hc
  rw [step_dispatches hrun hc (List.getElem?_eq_getElem hpc)]
  obtain ⟨t, ht, ends⟩ := dispatch_ends (s.clearEvents.fetched _) s.prog[s.pc.toNat]
  have hin : s.pc.toNat < s.execCount.length := hlen ▸ hpc
  refine ⟨t, ht, ?_⟩
  rcases ends with ⟨next, acc, hend⟩ | hend | ⟨c, hend⟩
  · have hgoes : t.engineState = .running := hend.engineState.trans hrun
    exact ⟨fun h => by simp [hgoes] at h, fun _ => hend.counted.at_pc hin⟩
  · exact ⟨fun h => by simp [hend.engineState] at h, fun _ => hend.counted.at_pc hin⟩
  · exact ⟨fun _ => hend.counted, fun h => absurd hend.engineState h⟩

/-! ### Failures -/

/-- What a dispatch that fails has written (R136, R174): nothing, or the clamped destination of the instruction that the
record decodes to. -/
structure FailsClean (s t : State) (r : Record) (c : Cause) : Prop where
  failed : FailedWith s t c
  cmpFlag : t.cmpFlag = s.cmpFlag
  stack : t.stack = s.stack
  mem : KeepsMem s t
  regs : (KeepsRegs s t ∧ c ≠ .arithOverflow ∧ c ≠ .arithUnderflow) ∨
    ∃ i d v, ∃ hd : d.toNat < 16, decode s.params.opcodes r = .ok i ∧ Clamps i c d v ∧
      t.readReg ⟨d.toNat, hd⟩ = v ∧ KeepsRegsBut s t ⟨d.toNat, hd⟩

theorem regs_of_writeReg {d : Fin 16} {v : Word} (h : t.regs = (s.writeReg d v).regs) :
    t.readReg d = v ∧ KeepsRegsBut s t d := by
  have hread (r : Fin 16) : t.readReg r = (s.writeReg d v).readReg r := by rw [State.readReg, h, State.readReg]
  refine ⟨?_, fun r hr => ?_⟩
  · rw [hread, readReg_writeReg, if_pos rfl]
  · rw [hread, readReg_writeReg, if_neg hr]

theorem dispatch_failsClean (hrun : s.engineState = .running) (h : s.dispatch r = .next t)
    (hfail : t.engineState = .failed) : ∃ c, FailsClean s t r c := by
  rcases dispatch_cases s r with ⟨i, hi, hdisp⟩ | ⟨e, -, hdisp⟩
  · obtain ⟨x, hx, ⟨next, acc, hc, -⟩ | ⟨-, hc, -⟩ | ⟨c, hc, -, hflag, hstack, hmem, hregs⟩⟩ := exec_answers i s
    all_goals obtain rfl := next_unique h (hdisp.trans hx)
    · rw [hc.engineState, hrun] at hfail
      cases hfail
    · rw [hc.engineState] at hfail
      cases hfail
    · refine ⟨c, hc, hflag, hstack, .of_eq hmem hc.keeps.memDraw, ?_⟩
      rcases hregs with ⟨hregs, hcause⟩ | ⟨d, v, hd, hclamp, hregs⟩
      · exact .inl ⟨.of_eq hregs, hcause⟩
      · exact .inr ⟨i, d, v, hd, hi, hclamp, regs_of_writeReg hregs⟩
  · obtain ⟨x, hx, hrej, kept⟩ := raise_rejects s .illegalOpcode
    obtain rfl := next_unique h (hdisp.trans hx)
    exact ⟨_, hrej, kept.cmpFlag, kept.stack, kept.mem, .inl ⟨kept.regs, by decide, by decide⟩⟩

/-- Settles O42: only a dispatch can fail, and R174's clamp names the cause and the operation. -/
theorem failureCommitsOnlyTheClamp : Obligations.FailureCommitsOnlyTheClamp := by
  unfold Obligations.FailureCommitsOnlyTheClamp
  intro s t hrun hcoh h hfail
  rw [step_running hrun] at h
  rcases runStep_cases s with hoff | ⟨w, -, hw, hr⟩
  · obtain rfl := next_unique h hoff
    cases hfail
  · obtain ⟨c, hc, hflag, hstack, hmem, hregs⟩ :=
      dispatch_failsClean (s := s.clearEvents.fetched w) hrun (hr.symm.trans h) hfail
    refine ⟨w, c, (recordAt_eq hcoh).symm.trans hw, hc, hflag, hstack, hmem, ?_⟩
    rcases hregs with ⟨hregs, hover, hunder⟩ | ⟨i, d, v, hd, hi, hclamp, hv, hregs⟩
    · exact ⟨fun _ _ => hregs, fun h => absurd h hover, fun h => absurd h hunder⟩
    · rcases hclamp with ⟨rfl, rfl, a, b, hop⟩ | ⟨rfl, rfl, a, b, rfl⟩
      · refine ⟨fun h => absurd rfl h, fun _ => ⟨d, a, b, hd, ?_, by simp [hv], hregs⟩, nofun⟩
        rcases hop with rfl | rfl
        · exact .inl hi
        · exact .inr hi
      · exact ⟨fun _ h => absurd rfl h, nofun, fun _ => ⟨d, a, b, hd, hi, by simp [hv], hregs⟩⟩

end Sys2Proof.Machine
end

section
/-! PROOFS of the family 40_fetch_dispatch. The instruction cache: what maintenance puts into it, and that it stays
coherent (spec/40_fetch_dispatch.md R155 to R158). -/

namespace Sys2Proof.Machine

variable {i : Instr} {s t : State} {e : Nat × Record}

/-! ### Maintenance -/

/-- Settles O44: maintenance is an update of the cache and of the count of free choices. -/
theorem maintenanceChangesOnlyTheCache : Obligations.MaintenanceChangesOnlyTheCache := by
  unfold Obligations.MaintenanceChangesOnlyTheCache
  intro s
  rw [maintain_eq]
  rfl

/-- R156: a pair after maintenance is an old one, or one of the program counted more than 1000 times. -/
theorem maintain_old_or_hot (h : e ∈ s.maintain.icache) :
    e ∈ s.icache ∨ (s.prog[e.1]? = some e.2 ∧ 1000 < (s.count e.1).toNat) := by
  rcases mem_maintain_icache h with hold | ⟨hhot, hprog⟩
  · exact .inl hold
  · obtain ⟨-, hcount, -⟩ := (mem_hotCandidates s e.1).1 hhot
    exact .inr ⟨hprog, hcount⟩

/-- Log 4: where every candidate fits, the pairs after maintenance are the old ones and every candidate's. -/
theorem mem_maintain_of_fit (h : s.icache.length + s.hotCandidates.length ≤ s.params.icacheEntries) :
    e ∈ s.maintain.icache ↔
      e ∈ s.icache ∨ (s.prog[e.1]? = some e.2 ∧ 1000 < (s.count e.1).toNat ∧ ∀ c ∈ s.icache, c.1 ≠ e.1) := by
  rw [maintain_all_fit (Nat.le_trans (icacheWith_length s _) h), setICache_icache, mem_icacheWith, mem_hotCandidates]
  refine or_congr_right ⟨fun ⟨⟨_, hhot⟩, hprog⟩ => ⟨hprog, hhot⟩, fun ⟨hprog, hhot⟩ => ⟨⟨?_, hhot⟩, hprog⟩⟩
  exact (List.getElem?_eq_some_iff.1 hprog).1

/-- R155: an instruction that goes on at a multiple of 1000 ends with maintenance, of a state with the cache, the program
and the parameters it had before. -/
theorem exec_maintains (h : exec i s = .next t) (hgoes : t.engineState = .running) (hperiod : t.pc.toNat % 1000 = 0) :
    ∃ x : State, t = x.maintain ∧ x.icache = s.icache ∧ x.prog = s.prog ∧ x.params = s.params := by
  cases exec_ends i s with
  | next u n acc same events effects target out =>
    obtain rfl := next_unique h out
    rw [moveTo_pc] at hperiod
    exact ⟨_, if_pos hperiod, same.icache, same.keeps.prog, same.keeps.params⟩
  | stop halt out =>
    obtain rfl := next_unique h out
    cases hgoes
  | fail u c run same events written out =>
    obtain rfl := next_unique h out
    cases hgoes

/-- Settles O45: the facts about maintenance, carried over to the instruction that ends with it. -/
theorem maintenanceInsertsHotPairs : Obligations.MaintenanceInsertsHotPairs := by
  unfold Obligations.MaintenanceInsertsHotPairs
  intro i s t _ h hgoes hperiod hsorted hbound
  obtain ⟨x, rfl, hcache, hprog, hparams⟩ := exec_maintains h hgoes hperiod
  have hcount (p : Nat) : x.maintain.count p = x.count p := by rw [count_eq, maintain_execCount, count_eq]
  simp only [hcount, State.progLen, ← hcache, ← hprog, ← hparams] at hsorted hbound ⊢
  refine ⟨fun e he => maintain_old_or_hot he, maintain_bounded hsorted hbound, fun hfit e => ?_⟩
  exact mem_maintain_of_fit (hfit _ (hotCandidates_nodup x) fun p hp => (mem_hotCandidates x p).1 hp)

/-! ### Coherence -/

theorem State.CacheCoherent.of_eq (h : s.CacheCoherent) (hcache : t.icache = s.icache) (hprog : t.prog = s.prog) :
    t.CacheCoherent := by
  unfold State.CacheCoherent
  rw [hcache, hprog]
  exact h

theorem State.CacheCoherent.of_nil (h : s.icache = []) : s.CacheCoherent := by simp [State.CacheCoherent, h]

theorem dispatch_coherent {r : Record} (hs : s.CacheCoherent) (h : s.dispatch r = .next t) : t.CacheCoherent := by
  rcases dispatch_cases s r with ⟨i, -, hd⟩ | ⟨e, -, hd⟩
  · exact (exec_cache (hd.symm.trans h)).1 hs
  · obtain ⟨x, hx, hrej, -⟩ := raise_rejects s .illegalOpcode
    obtain rfl := next_unique h (hd.trans hx)
    exact hs.of_eq hrej.cache.1 hrej.keeps.prog

/-- R126, R158: a command that replaces or drops the program empties the cache; every other keeps both. -/
theorem command_coherent (hs : s.CacheCoherent) (c : HostCmd) : (s.command c).CacheCoherent := by
  have either {p : Prop} [Decidable p] {u u' : State} (h : u.CacheCoherent) (h' : u'.CacheCoherent) :
      (if p then u else u').CacheCoherent := by
    split
    · exact h
    · exact h'
  cases c with
  | init n => exact either hs (.of_nil rfl)
  | teardown => exact either (.of_nil rfl) hs
  | loadProgram rs => exact either (either hs (either hs (.of_nil rfl))) hs
  | run => exact either (either hs hs) hs
  | getRegister n =>
    refine either ?_ hs
    unfold State.getRegister
    split
    · exact hs
    · exact hs
  | snapshot => exact either hs hs

/-- Settles O46: a dispatch, the end of a run, a host command and a waiting unit each keep the cache coherent. -/
theorem everyStepKeepsTheCacheCoherent : Obligations.EveryStepKeepsTheCacheCoherent := by
  unfold Obligations.EveryStepKeepsTheCacheCoherent
  intro s t hs h
  by_cases hrun : s.engineState = .running
  · rw [step_running hrun] at h
    rcases runStep_cases s with hoff | ⟨r, -, -, hr⟩
    · obtain rfl := next_unique h hoff
      exact hs
    · exact dispatch_coherent (s := s.clearEvents.fetched r) hs (hr.symm.trans h)
  · obtain rfl := next_unique h (step_waiting hrun)
    cases hp : s.pending with
    | nil => rw [hostStep_none hp]; exact hs
    | cons c cs =>
      rw [hostStep_some hp]
      exact command_coherent (s := { s with pending := cs, events := [] }) hs c

end Sys2Proof.Machine
end

section
/-! PROOFS of the family 40_fetch_dispatch. The host commands (spec/40_fetch_dispatch.md R120 to R131). -/

namespace Sys2Proof.Machine

variable {s : State} {c : HostCmd} {cs : List HostCmd} {rs : List Record} {i : Nat}

/-! ### What each command answers -/

theorem loadProgram_empty (h : rs.length = 0) : s.loadProgram rs = s.reject .emptyProgram := if_pos h

theorem loadProgram_tooLong (hne : rs.length ≠ 0) (h : s.params.progCapacity < rs.length) :
    s.loadProgram rs = s.reject .progTooLong := by
  rw [State.loadProgram, if_neg hne, if_pos h]

theorem loadProgram_accepted (hne : rs.length ≠ 0) (h : rs.length ≤ s.params.progCapacity) :
    s.loadProgram rs = (s.loadRecords rs).respond .done := by
  rw [State.loadProgram, if_neg hne, if_neg (Nat.not_lt.2 h)]

theorem run_loaded (h : s.engineState = .loaded) : s.run = { s.setEngine .running with response := none } := if_pos h

theorem run_notLoaded (h : s.engineState ≠ .loaded) : s.run = s.reject .notLoaded := if_neg h

theorem getRegister_ok (h : i < 16) : s.getRegister i = s.respond (.register (s.readReg ⟨i, h⟩)) := dif_pos h

theorem getRegister_bad (h : 16 ≤ i) : s.getRegister i = s.reject .badRegIndex := dif_neg (Nat.not_lt.2 h)

/-- R123: without an engine every command but INIT is rejected. -/
theorem command_noEngine (hlive : s.live = false) (hc : ∀ n, c ≠ .init n) : s.command c = s.reject .noEngine := by
  have hdead : ¬ s.live = true := by simp [hlive]
  cases c with
  | init n => exact absurd rfl (hc n)
  | teardown | loadProgram | run | getRegister | snapshot => exact if_neg hdead

/-- R120, R122: a unit that does not run takes the oldest waiting command. -/
theorem step_command {t : State} (hwaits : s.engineState ≠ .running) (hp : s.pending = c :: cs)
    (h : ({ s with pending := cs, events := [] } : State).command c = t) : step s = .next t := by
  rw [step_waiting hwaits, hostStep_some hp, h]

/-! ### The statements -/

/-- Settles O53: the three answers of LOAD_PROGRAM, by the length of its program. -/
theorem loadProgramFollowsItsRule : Obligations.LoadProgramFollowsItsRule := by
  unfold Obligations.LoadProgramFollowsItsRule
  intro s rs cs hlive hwaits hp
  have answers {t : State} (h : ({ s with pending := cs, events := [] } : State).loadProgram rs = t) :
      step s = .next t := step_command hwaits hp ((if_pos hlive).trans h)
  refine ⟨fun hempty => ?_, fun hlong hne => ?_, fun hne hfit => ?_⟩
  · exact answers (loadProgram_empty (List.length_eq_zero_iff.2 hempty))
  · exact answers (loadProgram_tooLong (mt List.length_eq_zero_iff.1 hne) hlong)
  · exact answers (loadProgram_accepted (Nat.ne_of_gt hne) hfit)

/-- Settles O54: RUN asks only whether the engine is `Loaded`. -/
theorem runStartsOnlyFromLoaded : Obligations.RunStartsOnlyFromLoaded := by
  unfold Obligations.RunStartsOnlyFromLoaded
  intro s cs hlive hp
  have answers {t : State} (hwaits : s.engineState ≠ .running)
      (h : ({ s with pending := cs, events := [] } : State).run = t) : step s = .next t :=
    step_command hwaits hp ((if_pos hlive).trans h)
  constructor
  · intro hloaded
    exact answers (by simp [hloaded]) (run_loaded hloaded)
  · intro hrest
    have hwaits : s.engineState ≠ .running ∧ s.engineState ≠ .loaded := by
      rcases hrest with h | h | h <;> simp [h]
    exact answers hwaits.1 (run_notLoaded hwaits.2)

/-- Settles O55: the two answers of GET_REGISTER, by its index. -/
theorem getRegisterReadsOneRegister : Obligations.GetRegisterReadsOneRegister := by
  unfold Obligations.GetRegisterReadsOneRegister
  intro s i cs hlive hwaits hp
  have answers {t : State} (h : ({ s with pending := cs, events := [] } : State).getRegister i = t) :
      step s = .next t := step_command hwaits hp ((if_pos hlive).trans h)
  exact ⟨fun hi => answers (getRegister_ok hi), fun hi => answers (getRegister_bad hi)⟩

/-- Settles O56: taking the command changes nothing that the snapshot and the status registers show. -/
theorem snapshotReadsTheState : Obligations.SnapshotReadsTheState := by
  unfold Obligations.SnapshotReadsTheState
  intro s cs hlive hwaits hp
  exact step_command hwaits hp (if_pos hlive)

/-- Settles O58: with an engine TEARDOWN leaves an empty unit; without one the command is rejected. -/
theorem commandsNeedAnEngine : Obligations.CommandsNeedAnEngine := by
  unfold Obligations.CommandsNeedAnEngine
  intro s c cs hwaits hp
  constructor
  · rintro hlive rfl
    exact ⟨_, step_command hwaits hp (if_pos hlive), rfl, rfl, rfl, rfl, rfl, rfl, rfl⟩
  · intro hdead hc
    exact step_command hwaits hp (command_noEngine hdead hc)

end Sys2Proof.Machine
end

section
/-! PROOFS of the family 40_fetch_dispatch. The cache is not observable: whatever runs of a state and of the same state
without counters and cache, the outcomes are alike but for them (spec/40_fetch_dispatch.md R141, R159). -/

namespace Sys2Proof.Machine

/-- Both outcomes are next states, alike but for their counters, caches and cache sizes. -/
def SameOut (o o' : Out) : Prop := ∃ t t', o = .next t ∧ o' = .next t' ∧ SameButCache t t'

theorem SameOut.next {t t' : State} (h : SameButCache t t') : SameOut (.next t) (.next t') := ⟨t, t', rfl, rfl, h⟩

theorem SameOut.symm {o o' : Out} (h : SameOut o o') : SameOut o' o := by
  obtain ⟨t, t', ht, ht', same⟩ := h
  exact ⟨t', t, ht', ht, Eq.symm same⟩

theorem SameOut.trans {o o' o'' : Out} (h : SameOut o o') (h' : SameOut o' o'') : SameOut o o'' := by
  obtain ⟨t, u, ht, hu, same⟩ := h
  obtain ⟨u', t', hu', ht', same'⟩ := h'
  obtain rfl := next_unique hu hu'
  exact ⟨t, t', ht, ht', Eq.trans same same'⟩

/-! ### The three ways a dispatched instruction ends -/

/-- R157: moving on changes only `pc` and what the cache hides. -/
theorem hideCache_moveTo (s : State) (t : Word) : (s.moveTo t).hideCache = s.hideCache.setPc t := by
  unfold State.moveTo
  split
  · rw [maintain_eq]; rfl
  · rfl

variable {s u u' : State}

theorem sameOut_advance {t : Word} (h : SameButCache u u') : SameOut (advance t u) (advance t u') := by
  refine .next ?_
  have hidden (v : State) :
      ((v.countDispatch.emitEnd .ok t).moveTo t).hideCache = (v.hideCache.emitEnd .ok t).setPc t := hideCache_moveTo _ t
  rw [SameButCache, hidden, hidden, h]

theorem sameOut_stop (h : SameButCache u u') : SameOut (stop u) (stop u') :=
  .next (congrArg (fun v : State => ((v.emitEnd .ok v.pc).setEngine .halted).respond .done) h :)

theorem sameOut_raise {c : Cause} (h : SameButCache u u') : SameOut (raise c u) (raise c u') :=
  .next (congrArg (fun v : State => (((v.emitEnd .fail v.pc).setErr (v.errOf c)).setEngine .failed).respond c.response) h :)

/-! ### The operand checks read nothing that the cache hides -/

theorem SameButCache.hideCache (s : State) : SameButCache s s.hideCache := rfl

theorem sameOut_withReg {k k' : Fin 16 → Out} {c : Cause} {v : Nat} (h : ∀ r, SameOut (k r) (k' r)) :
    SameOut (withReg c v s k) (withReg c v s.hideCache k') := by
  by_cases hv : v < 16
  · rw [withReg_ok hv, withReg_ok hv]
    exact h _
  · rw [withReg_bad (Nat.not_lt.1 hv), withReg_bad (Nat.not_lt.1 hv)]
    exact sameOut_raise (.hideCache s)

theorem sameOut_withThreeRegs {k k' : Fin 16 → Fin 16 → Fin 16 → Out} {d : Byte} {a b : Word}
    (h : ∀ rd ra rb, SameOut (k rd ra rb) (k' rd ra rb)) :
    SameOut (withThreeRegs d a b s k) (withThreeRegs d a b s.hideCache k') :=
  sameOut_withReg fun rd => sameOut_withReg fun ra => sameOut_withReg fun rb => h rd ra rb

theorem sameOut_ite {p : Prop} [Decidable p] {o₁ o₂ o₁' o₂' : Out} (h₁ : SameOut o₁ o₁') (h₂ : SameOut o₂ o₂') :
    SameOut (if p then o₁ else o₂) (if p then o₁' else o₂') := by
  split
  · exact h₁
  · exact h₂

theorem sameOut_withTarget {k k' : Out} {t : Word} (h : SameOut k k') :
    SameOut (withTarget t s k) (withTarget t s.hideCache k') :=
  sameOut_ite h (sameOut_raise (.hideCache s))

theorem sameOut_withRoom {k k' : Out} (h : SameOut k k') : SameOut (withRoom s k) (withRoom s.hideCache k') :=
  sameOut_ite (sameOut_raise (.hideCache s)) h

theorem sameOut_withWordAddr {k k' : Out} {a : Word} (h : SameOut k k') :
    SameOut (withWordAddr a s k) (withWordAddr a s.hideCache k') :=
  sameOut_ite h (sameOut_raise (.hideCache s))

theorem sameOut_withTop {k k' : Word → Out} (h : ∀ v, SameOut (k v) (k' v)) :
    SameOut (withTop s k) (withTop s.hideCache k') := by
  cases hs : s.stack with
  | nil =>
    rw [withTop_empty hs, withTop_empty (s := s.hideCache) hs]
    exact sameOut_raise (.hideCache s)
  | cons v st =>
    rw [withTop_cons hs, withTop_cons (s := s.hideCache) hs]
    exact h v

/-! ### The instructions -/

theorem sameOut_finishSum (rd : Fin 16) (v : Nat) (s : State) :
    SameOut (finishSum rd v s) (finishSum rd v s.hideCache) :=
  sameOut_ite (sameOut_raise rfl) (sameOut_advance rfl)

theorem sameOut_finishDifference (rd : Fin 16) (a b : Nat) (s : State) :
    SameOut (finishDifference rd a b s) (finishDifference rd a b s.hideCache) :=
  sameOut_ite (sameOut_raise rfl) (sameOut_advance rfl)

theorem sameOut_finishQuotient (rd : Fin 16) (divisor v : Nat) (s : State) :
    SameOut (finishQuotient rd divisor v s) (finishQuotient rd divisor v s.hideCache) :=
  sameOut_ite (sameOut_raise rfl) (sameOut_advance rfl)

theorem sameOut_jumpTo (taken : Bool) (t : Word) (s : State) : SameOut (jumpTo taken t s) (jumpTo taken t s.hideCache) :=
  sameOut_withTarget (sameOut_advance rfl)

theorem sameOut_copyBlock (dest src len : Word) (s : State) :
    SameOut (copyBlock dest src len s) (copyBlock dest src len s.hideCache) :=
  sameOut_ite (sameOut_advance rfl) (sameOut_ite (sameOut_advance rfl) (sameOut_raise rfl))

theorem sameOut_execMemcpy (d : Byte) (a b : Word) (s : State) :
    SameOut (exec (.memcpy d a b) s) (exec (.memcpy d a b) s.hideCache) := by
  cases hf : s.params.memcpyFields with
  | positional =>
    rw [exec_memcpy_positional s hf, exec_memcpy_positional s.hideCache hf]
    exact sameOut_copyBlock _ a b s
  | registerIndirect =>
    rw [exec_memcpy_indirect s hf, exec_memcpy_indirect s.hideCache hf]
    exact sameOut_withThreeRegs fun _ _ _ => sameOut_copyBlock _ _ _ s

/-- No instruction reads the counters, the cache or its size, so hiding them changes nothing else of its outcome. -/
theorem sameOut_exec (i : Instr) (s : State) : SameOut (exec i s) (exec i s.hideCache) := by
  cases i with
  | halt => exact sameOut_stop (.hideCache s)
  | load =>
    simp only [exec, execLoad, withDest]
    exact sameOut_withReg fun _ => sameOut_advance rfl
  | add =>
    simp only [exec, execAdd]
    exact sameOut_withThreeRegs fun _ _ _ => sameOut_finishSum _ _ s
  | sub =>
    simp only [exec, execSub]
    exact sameOut_withThreeRegs fun _ _ _ => sameOut_finishDifference _ _ _ s
  | mul =>
    simp only [exec, execMul]
    exact sameOut_withThreeRegs fun _ _ _ => sameOut_finishSum _ _ s
  | div =>
    simp only [exec, execDiv]
    exact sameOut_withThreeRegs fun _ _ _ => sameOut_finishQuotient _ _ _ s
  | mod =>
    simp only [exec, execMod]
    exact sameOut_withThreeRegs fun _ _ _ => sameOut_finishQuotient _ _ _ s
  | cmp =>
    simp only [exec, execCmp, withOp1, withOp2]
    exact sameOut_withReg fun _ => sameOut_withReg fun _ => sameOut_advance rfl
  | jmp t => exact sameOut_jumpTo _ t s
  | jeq t => exact sameOut_jumpTo _ t s
  | jne t => exact sameOut_jumpTo _ t s
  | jgt t => exact sameOut_jumpTo _ t s
  | jlt t => exact sameOut_jumpTo _ t s
  | jge t => exact sameOut_jumpTo _ t s
  | push =>
    simp only [exec, execPush, withDest]
    exact sameOut_withReg fun _ => sameOut_withRoom (sameOut_advance rfl)
  | pop =>
    simp only [exec, execPop, withDest]
    exact sameOut_withReg fun _ => sameOut_withTop fun _ => sameOut_advance rfl
  | store =>
    simp only [exec, execStore, withDest]
    exact sameOut_withReg fun _ => sameOut_withWordAddr (sameOut_advance rfl)
  | loadMem =>
    simp only [exec, execLoadMem, withDest]
    exact sameOut_withReg fun _ => sameOut_withWordAddr (sameOut_advance rfl)
  | memcpy d a b => exact sameOut_execMemcpy d a b s
  | call =>
    simp only [exec, execCall]
    exact sameOut_withTarget (sameOut_withRoom (sameOut_advance rfl))
  | ret =>
    simp only [exec, execRet]
    exact sameOut_withTop fun _ => sameOut_ite (sameOut_advance rfl) (sameOut_raise rfl)

/-! ### A step -/

theorem sameOut_dispatch (s : State) (r : Record) : SameOut (s.dispatch r) (s.hideCache.dispatch r) := by
  cases hd : decode s.params.opcodes r with
  | ok i =>
    rw [dispatch_ok hd, dispatch_ok (s := s.hideCache) hd]
    exact sameOut_exec i s
  | error e =>
    rw [dispatch_illegal hd, dispatch_illegal (s := s.hideCache) hd]
    exact sameOut_raise (.hideCache s)

/-- R140, R141: a coherent cache gives fetch the record that a unit without a cache reads from the program. -/
theorem sameOut_runStep (hc : s.CacheCoherent) : SameOut s.runStep s.hideCache.runStep := by
  have hfetch : s.recordAt = s.prog[s.pc.toNat]? := recordAt_eq hc
  by_cases hoff : s.progLen ≤ s.pc.toNat
  · rw [runStep_offEnd hoff, runStep_offEnd (s := s.hideCache) hoff]
    exact .next rfl
  · have hin : s.pc.toNat < s.progLen := Nat.not_le.1 hoff
    have hrecord : s.prog[s.pc.toNat]? = some s.prog[s.pc.toNat] := List.getElem?_eq_getElem hin
    rw [runStep_fetched hin (hfetch.trans hrecord), runStep_fetched (s := s.hideCache) hin hrecord]
    exact sameOut_dispatch (s.clearEvents.fetched _) _

theorem sameButCache_ite {p : Prop} [Decidable p] {t t' : State} (h : SameButCache u u') (h' : SameButCache t t') :
    SameButCache (if p then u else t) (if p then u' else t') := by
  split
  · exact h
  · exact h'

/-- No host command reads the counters, the cache or its size. -/
theorem sameButCache_command (s : State) (c : HostCmd) : SameButCache (s.command c) (s.hideCache.command c) := by
  cases c with
  | init n => exact sameButCache_ite rfl rfl
  | teardown => exact sameButCache_ite rfl rfl
  | loadProgram rs => exact sameButCache_ite (sameButCache_ite rfl (sameButCache_ite rfl rfl)) rfl
  | run => exact sameButCache_ite (sameButCache_ite rfl rfl) rfl
  | getRegister i =>
    refine sameButCache_ite ?_ rfl
    by_cases hi : i < 16
    · rw [getRegister_ok hi, getRegister_ok (s := s.hideCache) hi]
      rfl
    · rw [getRegister_bad (Nat.not_lt.1 hi), getRegister_bad (s := s.hideCache) (Nat.not_lt.1 hi)]
      rfl
  | snapshot => exact sameButCache_ite rfl rfl

theorem sameButCache_hostStep (s : State) : SameButCache s.hostStep s.hideCache.hostStep := by
  cases hp : s.pending with
  | nil =>
    rw [hostStep_none hp, hostStep_none (s := s.hideCache) hp]
    exact .hideCache s
  | cons c cs =>
    rw [hostStep_some hp, hostStep_some (s := s.hideCache) hp]
    exact sameButCache_command _ c

/-- A step of a unit is a step of the unit without counters and cache. -/
theorem sameOut_step (hc : s.CacheCoherent) : SameOut (step s) (step s.hideCache) := by
  by_cases hrun : s.engineState = .running
  · rw [step_running hrun, step_running (s := s.hideCache) hrun]
    exact sameOut_runStep hc
  · rw [step_waiting hrun, step_waiting (s := s.hideCache) hrun]
    exact .next (sameButCache_hostStep s)

/-- Settles O47: both units step as the one unit without counters and cache that they share. -/
theorem theCacheIsNotObservable : Obligations.TheCacheIsNotObservable := by
  unfold Obligations.TheCacheIsNotObservable
  intro s s' same hc hc'
  have hs : SameOut (step s) (step s'.hideCache) := same ▸ sameOut_step hc
  exact hs.trans (sameOut_step hc').symm

end Sys2Proof.Machine
end

section
/-! PROOFS of the family 41_arith. LOAD, the arithmetic group and CMP: the three ways their operations end, and the rule of
each instruction (spec/41_arith.md R171 to R182). -/

namespace Sys2Proof.Machine

variable {s t : State} {rd : Fin 16} {d : Byte} {a b x y : Word} {v : Nat}

/-! ### A register written at the end of an instruction -/

/-- A state that differs from `s` in its data by one register write only. -/
theorem WritesReg.of_eq {w : Word} (hregs : t.regs = (s.writeReg rd w).regs) (hflag : t.cmpFlag = s.cmpFlag)
    (hstack : t.stack = s.stack) (hmem : t.mem = s.mem) (hdraw : t.memDraw = s.memDraw) : WritesReg s t rd w.toNat := by
  obtain ⟨hvalue, hothers⟩ := regs_of_writeReg hregs
  exact ⟨congrArg BitVec.toNat hvalue, hothers, hflag, hstack, .of_eq hmem hdraw⟩

theorem advance_writeReg (s : State) (rd : Fin 16) (w next : Word) :
    ∃ t, advance next (s.writeReg rd w) = .next t ∧ Completed s t next [] ∧ WritesReg s t rd w.toNat := by
  obtain ⟨t, ht, hc, hregs, hflag, hstack, hmem⟩ :=
    advance_completes (SameRun.of_writeReg s rd w) next [] (List.append_nil _).symm
  exact ⟨t, ht, hc, .of_eq hregs hflag hstack hmem hc.keeps.memDraw⟩

theorem raise_writeReg (s : State) (rd : Fin 16) (w : Word) (c : Cause) :
    ∃ t, raise c (s.writeReg rd w) = .next t ∧ FailedWith s t c ∧ WritesReg s t rd w.toNat := by
  obtain ⟨t, ht, hf, hregs, hflag, hstack, hmem⟩ := raise_fails (SameRun.of_writeReg s rd w) c rfl
  exact ⟨t, ht, hf, .of_eq hregs hflag hstack hmem hf.keeps.memDraw⟩

/-- A result of at most 32 bits is written exactly (R172). -/
theorem advance_writeNat (s : State) (rd : Fin 16) (hv : v ≤ wordMax) (next : Word) :
    ∃ t, advance next (s.writeReg rd (BitVec.ofNat 32 v)) = .next t ∧ Completed s t next [] ∧ WritesReg s t rd v := by
  have hexact : (BitVec.ofNat 32 v).toNat = v := (BitVec.toNat_ofNat v 32).trans (Nat.mod_eq_of_lt (Nat.lt_succ_of_le hv))
  simpa only [hexact] using advance_writeReg s rd (BitVec.ofNat 32 v) next

/-! ### How the operations end -/

theorem finishSum_fits (s : State) (rd : Fin 16) (hv : v ≤ wordMax) :
    ∃ t, finishSum rd v s = .next t ∧ Completed s t (s.pc + 1) [] ∧ WritesReg s t rd v := by
  rw [finishSum, if_neg (Nat.not_lt.2 hv)]
  exact advance_writeNat s rd hv _

theorem finishSum_overflows (s : State) (rd : Fin 16) (hv : wordMax < v) :
    ∃ t, finishSum rd v s = .next t ∧ FailedWith s t .arithOverflow ∧ WritesReg s t rd wordMax := by
  rw [finishSum, if_pos hv]
  exact raise_writeReg s rd (BitVec.ofNat 32 wordMax) .arithOverflow

theorem finishDifference_fits (s : State) (rd : Fin 16) (h : y.toNat ≤ x.toNat) :
    ∃ t, finishDifference rd x.toNat y.toNat s = .next t ∧ Completed s t (s.pc + 1) [] ∧
      WritesReg s t rd (x.toNat - y.toNat) := by
  have hfits : x.toNat - y.toNat ≤ wordMax := (Nat.sub_le _ _).trans (Nat.le_of_lt_succ x.isLt)
  rw [finishDifference, if_neg (Nat.not_lt.2 h)]
  exact advance_writeNat s rd hfits _

theorem finishDifference_underflows (s : State) (rd : Fin 16) (h : x.toNat < y.toNat) :
    ∃ t, finishDifference rd x.toNat y.toNat s = .next t ∧ FailedWith s t .arithUnderflow ∧ WritesReg s t rd 0 := by
  rw [finishDifference, if_pos h]
  exact raise_writeReg s rd 0 .arithUnderflow

theorem finishQuotient_rejects (s : State) (rd : Fin 16) {divisor : Nat} (h : divisor = 0) :
    ∃ t, finishQuotient rd divisor v s = .next t ∧ Rejected s t .divZero := by
  rw [finishQuotient, if_pos h]
  exact raise_rejects s .divZero

theorem finishQuotient_writes (s : State) (rd : Fin 16) {divisor : Nat} (h : divisor ≠ 0) (hv : v ≤ wordMax) :
    ∃ t, finishQuotient rd divisor v s = .next t ∧ Completed s t (s.pc + 1) [] ∧ WritesReg s t rd v := by
  rw [finishQuotient, if_neg h]
  exact advance_writeNat s rd hv _

/-! ### The three register checks -/

section
variable (s : State) (k : Fin 16 → Fin 16 → Fin 16 → Out)

theorem withThreeRegs_badDest (hd : 16 ≤ d.toNat) : withThreeRegs d a b s k = raise .badRegDest s := by
  rw [withThreeRegs, withDest, withReg_bad hd]

theorem withThreeRegs_badOp1 (hd : d.toNat < 16) (ha : 16 ≤ a.toNat) :
    withThreeRegs d a b s k = raise .badRegOp1 s := by
  rw [withThreeRegs, withDest, withReg_ok hd, withOp1, withReg_bad ha]

theorem withThreeRegs_badOp2 (hd : d.toNat < 16) (ha : a.toNat < 16) (hb : 16 ≤ b.toNat) :
    withThreeRegs d a b s k = raise .badRegOp2 s := by
  rw [withThreeRegs, withDest, withReg_ok hd, withOp1, withReg_ok ha, withOp2, withReg_bad hb]

end

/-- R145, whatever the instruction does once its three indices have passed. -/
theorem checksThreeRegs_of_exec {mk : Byte → Word → Word → Instr} {k : Fin 16 → Fin 16 → Fin 16 → Out}
    (hexec : exec (mk d a b) s = withThreeRegs d a b s k) : ChecksThreeRegs mk s d a b := by
  rw [ChecksThreeRegs, hexec]
  refine ⟨fun hd => ?_, fun hd ha => ?_, fun hd ha hb => ?_⟩
  · rw [withThreeRegs_badDest s k hd]
    exact raise_rejects s .badRegDest
  · rw [withThreeRegs_badOp1 s k hd ha]
    exact raise_rejects s .badRegOp1
  · rw [withThreeRegs_badOp2 s k hd ha hb]
    exact raise_rejects s .badRegOp2

/-! ### LOAD, ADD, SUB, MUL, DIV, MOD -/

/-- Settles O15: the register check, else one write of the immediate. -/
theorem loadFollowsItsRule : Obligations.LoadFollowsItsRule := by
  unfold Obligations.LoadFollowsItsRule
  intro s d imm
  constructor
  · intro hd
    rw [exec_load_badReg s hd]
    exact raise_rejects s .badRegDest
  · intro hd
    rw [exec_load s hd]
    exact advance_writeReg s _ imm _

/-- Settles O16: ADD ends as `finishSum` of the exact sum. -/
theorem addFollowsItsRule : Obligations.AddFollowsItsRule := by
  unfold Obligations.AddFollowsItsRule
  intro s d a b
  refine ⟨checksThreeRegs_of_exec (by rw [exec, execAdd]), fun hd ha hb => ?_⟩
  rw [exec_add s hd ha hb]
  exact ⟨finishSum_fits s _, finishSum_overflows s _⟩

/-- Settles O17: SUB ends as `finishDifference` of the two values. -/
theorem subFollowsItsRule : Obligations.SubFollowsItsRule := by
  unfold Obligations.SubFollowsItsRule
  intro s d a b
  refine ⟨checksThreeRegs_of_exec (by rw [exec, execSub]), fun hd ha hb => ?_⟩
  rw [exec_sub s hd ha hb]
  exact ⟨finishDifference_fits s _, finishDifference_underflows s _⟩

/-- Settles O18: MUL ends as `finishSum` of the exact product. -/
theorem mulFollowsItsRule : Obligations.MulFollowsItsRule := by
  unfold Obligations.MulFollowsItsRule
  intro s d a b
  refine ⟨checksThreeRegs_of_exec (by rw [exec, execMul]), fun hd ha hb => ?_⟩
  rw [exec_mul s hd ha hb]
  exact ⟨finishSum_fits s _, finishSum_overflows s _⟩

/-- Settles O19: the quotient is at most the dividend, so it fits a register. -/
theorem divFollowsItsRule : Obligations.DivFollowsItsRule := by
  unfold Obligations.DivFollowsItsRule
  intro s d a b
  refine ⟨checksThreeRegs_of_exec (by rw [exec, execDiv]), fun hd ha hb => ?_⟩
  rw [exec_div s hd ha hb]
  have hfits := (Nat.div_le_self _ (s.readReg ⟨b.toNat, hb⟩).toNat).trans
    (Nat.le_of_lt_succ (s.readReg ⟨a.toNat, ha⟩).isLt)
  exact ⟨finishQuotient_rejects s _, fun hne => finishQuotient_writes s _ hne hfits⟩

/-- Settles O20: the model's `x - x / y * y` is the remainder, at most the dividend and below the divisor. -/
theorem modFollowsItsRule : Obligations.ModFollowsItsRule := by
  unfold Obligations.ModFollowsItsRule
  intro s d a b
  refine ⟨checksThreeRegs_of_exec (by rw [exec, execMod]), fun hd ha hb => ?_⟩
  rw [exec_mod s hd ha hb, ← Nat.mod_eq_sub_div_mul]
  have hfits := (Nat.mod_le _ (s.readReg ⟨b.toNat, hb⟩).toNat).trans
    (Nat.le_of_lt_succ (s.readReg ⟨a.toNat, ha⟩).isLt)
  refine ⟨finishQuotient_rejects s _, fun hne => ?_⟩
  obtain ⟨t, ht, hc, hw⟩ := finishQuotient_writes s ⟨d.toNat, hd⟩ hne hfits
  exact ⟨t, ht, hc, hw, hw.value.trans_lt (Nat.mod_lt _ (Nat.pos_of_ne_zero hne))⟩

/-! ### CMP -/

/-- R182: the flag is the sign of the difference of the unsigned values. -/
theorem compareFlag_iff :
    (compareFlag x y = .less ↔ x.toNat < y.toNat) ∧ (compareFlag x y = .equal ↔ x.toNat = y.toNat) ∧
      (compareFlag x y = .greater ↔ y.toNat < x.toNat) := by
  unfold compareFlag
  rcases Nat.lt_trichotomy x.toNat y.toNat with h | h | h
  · simp [h, h.ne, h.le]
  · simp [h]
  · simp [h, h.ne', Nat.not_lt.2 h.le]

/-- An instruction that completes with a write of the flag writes no other data. -/
theorem advance_setCmpFlag (s : State) (f : CmpFlag) (next : Word) :
    ∃ t, advance next (s.setCmpFlag f) = .next t ∧ Completed s t next [] ∧ KeepsRegs s t ∧ t.stack = s.stack ∧
      KeepsMem s t ∧ t.cmpFlag = f := by
  obtain ⟨t, ht, hc, hregs, hflag, hstack, hmem⟩ :=
    advance_completes (SameRun.of_setCmpFlag s f) next [] (List.append_nil _).symm
  exact ⟨t, ht, hc, .of_eq hregs, hstack, .of_eq hmem hc.keeps.memDraw, hflag⟩

/-- Settles O21: one of the two register checks, else one write of the flag. -/
theorem cmpFollowsItsRule : Obligations.CmpFollowsItsRule := by
  unfold Obligations.CmpFollowsItsRule
  intro s a b
  refine ⟨fun ha => ?_, fun ha hb => ?_, fun ha hb => ?_⟩
  · rw [exec_cmp_badOp1 s ha]
    exact raise_rejects s .badRegOp1
  · rw [exec_cmp_badOp2 s ha hb]
    exact raise_rejects s .badRegOp2
  · rw [exec_cmp s ha hb]
    obtain ⟨t, ht, hc, hregs, hstack, hmem, hflag⟩ :=
      advance_setCmpFlag s (compareFlag (s.readReg ⟨a.toNat, ha⟩) (s.readReg ⟨b.toNat, hb⟩)) (s.pc + 1)
    exact ⟨t, ht, hc, hregs, hstack, hmem, hflag ▸ compareFlag_iff⟩

end Sys2Proof.Machine
end

section
/-! PROOFS of the family 42_control. The jumps: one rule for all six, and what they do after CMP (spec/42_control.md R200 to
R208). -/

namespace Sys2Proof.Machine

variable {s : State} {target : Word} {mk : Word → Instr} {taken : CmpFlag → Prop}

/-- An instruction that completes and has written nothing keeps all data. -/
theorem advance_keepsData (s : State) (next : Word) :
    ∃ t, advance next s = .next t ∧ Completed s t next [] ∧ KeepsData s t := by
  obtain ⟨t, ht, hc, hregs, hflag, hstack, hmem⟩ := advance_completes (SameRun.refl s) next [] (List.append_nil _).symm
  exact ⟨t, ht, hc, .of_eq hregs, hflag, hstack, .of_eq hmem hc.keeps.memDraw⟩

/-- R201, whatever decides that the jump is taken. -/
theorem jumpsWhen_of_exec {b : Bool} (hexec : exec (mk target) s = jumpTo b target s)
    (hb : b = true ↔ taken s.cmpFlag) : JumpsWhen mk taken s target := by
  rw [JumpsWhen, hexec]
  refine ⟨fun hout => ?_, fun hin htaken => ?_, fun hin hnot => ?_⟩
  · rw [jumpTo_bad s hout]
    exact raise_rejects s .badTarget
  · rw [jumpTo_ok s hin, if_pos (hb.2 htaken)]
    exact advance_keepsData s target
  · rw [jumpTo_ok s hin, if_neg (mt hb.1 hnot)]
    exact advance_keepsData s (s.pc + 1)

/-- Where a jump inside the program goes, its condition said by any proposition `p`. -/
theorem JumpsWhen.exists_pc (h : JumpsWhen mk taken s target) (hin : target.toNat < s.progLen) {p : Prop} [Decidable p]
    (hp : taken s.cmpFlag ↔ p) : ∃ u, exec (mk target) s = .next u ∧ u.pc = if p then target else s.pc + 1 := by
  obtain ⟨-, hjumps, hfalls⟩ := h
  split
  · next hyes =>
    obtain ⟨u, hu, hc, -⟩ := hjumps hin (hp.2 hyes)
    exact ⟨u, hu, hc.pc⟩
  · next hno =>
    obtain ⟨u, hu, hc, -⟩ := hfalls hin (mt hp.1 hno)
    exact ⟨u, hu, hc.pc⟩

/-- R208's condition in the flag's values: not `-1` is `0` or `+1`. -/
theorem takenJge_iff (f : CmpFlag) : takenJge f = true ↔ f = .equal ∨ f = .greater := by cases f <;> decide

/-- Settles O22: JMP is the jump that is always taken. -/
theorem jmpFollowsItsRule : Obligations.JmpFollowsItsRule := by
  unfold Obligations.JmpFollowsItsRule
  intro s target
  obtain ⟨hout, hjumps, -⟩ : JumpsWhen .jmp (fun _ => True) s target := jumpsWhen_of_exec rfl (iff_of_true rfl trivial)
  exact ⟨hout, fun hin => hjumps hin trivial⟩

/-- Settles O23: the five jumps are `jumpTo` of the flag's test, each test deciding its condition. -/
theorem conditionalJumpsFollowTheirRules : Obligations.ConditionalJumpsFollowTheirRules := by
  unfold Obligations.ConditionalJumpsFollowTheirRules
  intro s target
  refine ⟨?jeq, ?jne, ?jgt, ?jlt, ?jge⟩
  case jeq => exact jumpsWhen_of_exec rfl decide_eq_true_iff
  case jne => exact jumpsWhen_of_exec rfl decide_eq_true_iff
  case jgt => exact jumpsWhen_of_exec rfl decide_eq_true_iff
  case jlt => exact jumpsWhen_of_exec rfl decide_eq_true_iff
  case jge => exact jumpsWhen_of_exec rfl (takenJge_iff s.cmpFlag)

/-- Settles O24: CMP leaves the program as it is and a flag that says how the registers compare, and each jump goes by that
flag. -/
theorem jumpAfterCmpComparesUnsigned : Obligations.JumpAfterCmpComparesUnsigned := by
  unfold Obligations.JumpAfterCmpComparesUnsigned
  intro s a b target ha hb hin
  obtain ⟨-, -, hcmp⟩ := cmpFollowsItsRule s a b
  obtain ⟨t, ht, hc, -, -, -, hless, hequal, hgreater⟩ := hcmp ha hb
  have hin : target.toNat < t.progLen := hc.keeps.progLen ▸ hin
  obtain ⟨-, hjmp⟩ := jmpFollowsItsRule t target
  obtain ⟨u, hu, hcu, -⟩ := hjmp hin
  obtain ⟨jeq, jne, jgt, jlt, jge⟩ := conditionalJumpsFollowTheirRules t target
  rw [← hc.pc]
  have hge : t.cmpFlag = .equal ∨ t.cmpFlag = .greater ↔
      (s.readReg ⟨b.toNat, hb⟩).toNat ≤ (s.readReg ⟨a.toNat, ha⟩).toNat := by
    rw [hequal, hgreater]
    omega
  exact ⟨t, ht, ⟨u, hu, hcu.pc⟩, jeq.exists_pc hin hequal, jne.exists_pc hin (not_congr hequal),
    jgt.exists_pc hin hgreater, jlt.exists_pc hin hless, jge.exists_pc hin hge⟩

end Sys2Proof.Machine
end

section
/-! PROOFS of the family 43_stack_call. PUSH, POP, CALL and RET: the entries of the stack around a push and a pop, and the
rule of each instruction (spec/43_stack_call.md R220 to R228). -/

namespace Sys2Proof.Machine

variable {s t : State} {v : Word} {rest : List Word}

/-! ### The entries around a push -/

/-- R220's `sp <- sp + 1`. -/
theorem sp_of_push (h : t.stack = v :: s.stack) : t.sp = s.sp + 1 := congrArg List.length h

theorem stackEntry_of_push (h : t.stack = v :: s.stack) (k : Nat) :
    t.stackEntry k = (s.stack.reverse ++ [v])[k]? := by
  rw [State.stackEntry, h, List.reverse_cons]

/-- R220's `stack[sp] <- v`. -/
theorem stackEntry_sp_of_push (h : t.stack = v :: s.stack) : t.stackEntry s.sp = some v := by
  rw [stackEntry_of_push h, State.sp, ← List.length_reverse]
  exact List.getElem?_concat_length

theorem stackEntry_of_lt_of_push (h : t.stack = v :: s.stack) {k : Nat} (hk : k < s.sp) :
    t.stackEntry k = s.stackEntry k := by
  rw [stackEntry_of_push h]
  exact List.getElem?_append_left (hk.trans_eq List.length_reverse.symm)

theorem sp_eq_zero_iff : s.sp = 0 ↔ s.stack = [] := List.length_eq_zero_iff

/-! ### How the operations end -/

/-- PUSH and CALL, their checks passed: one entry more, and no other data is written. -/
theorem advance_pushWord (s : State) (v next : Word) :
    ∃ t, advance next (s.pushWord v) = .next t ∧ Completed s t next [] ∧ t.stack = v :: s.stack ∧ KeepsRegs s t ∧
      t.cmpFlag = s.cmpFlag ∧ KeepsMem s t := by
  obtain ⟨t, ht, hc, hregs, hflag, hstack, hmem⟩ :=
    advance_completes (SameRun.of_setStack s (v :: s.stack)) next [] (List.append_nil _).symm
  exact ⟨t, ht, hc, hstack, .of_eq hregs, hflag, .of_eq hmem hc.keeps.memDraw⟩

/-- RET, its checks passed: one entry less, and no other data is written. -/
theorem advance_dropTop (h : s.stack = v :: rest) (next : Word) :
    ∃ t, advance next s.dropTop = .next t ∧ Completed s t next [] ∧ t.stack = rest ∧ KeepsRegs s t ∧
      t.cmpFlag = s.cmpFlag ∧ KeepsMem s t := by
  obtain ⟨t, ht, hc, hregs, hflag, hstack, hmem⟩ :=
    advance_completes (SameRun.of_setStack s s.stack.tail) next [] (List.append_nil _).symm
  exact ⟨t, ht, hc, hstack.trans (congrArg List.tail h), .of_eq hregs, hflag, .of_eq hmem hc.keeps.memDraw⟩

/-- POP, its checks passed: one entry less, one register written, and no other data. -/
theorem advance_dropTop_writeReg (h : s.stack = v :: rest) (rd : Fin 16) (w next : Word) :
    ∃ t, advance next (s.dropTop.writeReg rd w) = .next t ∧ Completed s t next [] ∧ t.readReg rd = w ∧ t.stack = rest ∧
      KeepsRegsBut s t rd ∧ t.cmpFlag = s.cmpFlag ∧ KeepsMem s t := by
  obtain ⟨t, ht, hc, hregs, hflag, hstack, hmem⟩ :=
    advance_completes ((SameRun.of_setStack s s.stack.tail).writeReg rd w) next [] (List.append_nil _).symm
  obtain ⟨hvalue, hothers⟩ := regs_of_writeReg (s := s) hregs
  exact ⟨t, ht, hc, hvalue, hstack.trans (congrArg List.tail h), hothers, hflag, .of_eq hmem hc.keeps.memDraw⟩

/-! ### PUSH and POP -/

/-- Settles O25: the register check, the check for room, else one push of the register's value. -/
theorem pushFollowsItsRule : Obligations.PushFollowsItsRule := by
  unfold Obligations.PushFollowsItsRule
  intro s d
  refine ⟨fun hd => ?_, fun hd hfull => ?_, fun hd hroom => ?_⟩
  · rw [exec_push_badReg s hd]
    exact raise_rejects s .badRegDest
  · rw [exec_push_full s hd hfull]
    exact raise_rejects s .stackFull
  · rw [exec_push s hd hroom]
    obtain ⟨t, ht, hc, hstack, hdata⟩ := advance_pushWord s (s.readReg ⟨d.toNat, hd⟩) (s.pc + 1)
    exact ⟨t, ht, hc, hstack, sp_of_push hstack, stackEntry_sp_of_push hstack,
      fun k hk => stackEntry_of_lt_of_push hstack hk, hdata⟩

/-- Settles O26: the register check, the check for an entry, else one pop into the register. The state before is the one
after with the popped entry pushed. -/
theorem popFollowsItsRule : Obligations.PopFollowsItsRule := by
  unfold Obligations.PopFollowsItsRule
  intro s d
  refine ⟨fun hd => ?_, fun hd hempty => ?_, fun hd v rest hs => ?_⟩
  · rw [exec_pop_badReg s hd]
    exact raise_rejects s .badRegDest
  · rw [exec_pop_empty s hd (sp_eq_zero_iff.1 hempty)]
    exact raise_rejects s .stackEmpty
  · rw [exec_pop s hd hs]
    obtain ⟨t, ht, hc, hvalue, hstack, hdata⟩ := advance_dropTop_writeReg hs ⟨d.toNat, hd⟩ v (s.pc + 1)
    have hpush : s.stack = v :: t.stack := hstack ▸ hs
    have hsp : s.sp - 1 = t.sp := by rw [sp_of_push hpush, Nat.add_sub_cancel]
    have htop : s.stackEntry (s.sp - 1) = some v := hsp ▸ stackEntry_sp_of_push hpush
    exact ⟨t, ht, hc, hvalue, htop, hstack, hsp.symm, hdata⟩

/-- Settles O29: PUSH leaves the value on top of the old stack, and POP takes the top. -/
theorem popTakesBackWhatPushPut : Obligations.PopTakesBackWhatPushPut := by
  unfold Obligations.PopTakesBackWhatPushPut
  intro s d e hd he hroom
  obtain ⟨-, -, hpush⟩ := pushFollowsItsRule s d
  obtain ⟨t, ht, hct, hstack, -, -, -, hregs, -⟩ := hpush hd hroom
  obtain ⟨-, -, hpop⟩ := popFollowsItsRule t e
  obtain ⟨u, hu, hcu, hvalue, -, hback, -, hothers, -⟩ := hpop he _ _ hstack
  exact ⟨t, u, ht, hu, hvalue, fun r hr => (hothers r hr).trans (hregs r), hback, hct.pc ▸ hcu.pc⟩

/-! ### CALL and RET -/

/-- Settles O27: the target check, the check for room, else one push of `pc + 1`. -/
theorem callFollowsItsRule : Obligations.CallFollowsItsRule := by
  unfold Obligations.CallFollowsItsRule
  intro s target
  refine ⟨fun hout => ?_, fun hin hfull => ?_, fun hin hroom => ?_⟩
  · rw [exec_call_badTarget s hout]
    exact raise_rejects s .badTarget
  · rw [exec_call_full s hin hfull]
    exact raise_rejects s .stackFull
  · rw [exec_call s hin hroom]
    exact advance_pushWord s (s.pc + 1) target

/-- Settles O28: the check for an entry, the check of the top value, else one pop into `pc`. -/
theorem retFollowsItsRule : Obligations.RetFollowsItsRule := by
  unfold Obligations.RetFollowsItsRule
  intro s
  refine ⟨fun hempty => ?_, fun v rest hs => ⟨fun hcheck hout => ?_, fun hok => ?_⟩⟩
  · rw [exec_ret_empty s (sp_eq_zero_iff.1 hempty)]
    exact raise_rejects s .stackEmpty
  · rw [exec_ret_bad s hs (by simp [hcheck, hout])]
    exact raise_rejects s .badReturn
  · rw [exec_ret s hs hok]
    exact advance_dropTop hs v

/-- Settles O30: CALL leaves `pc + 1` on top of the old stack, with the parameters and the program as they were, and RET
goes by that value. -/
theorem retReturnsBehindTheCall : Obligations.RetReturnsBehindTheCall := by
  unfold Obligations.RetReturnsBehindTheCall
  intro s target hin hroom
  obtain ⟨-, -, hcall⟩ := callFollowsItsRule s target
  obtain ⟨t, ht, hc, hstack, -⟩ := hcall hin hroom
  obtain ⟨-, hret⟩ := retFollowsItsRule t
  obtain ⟨hbad, hreturns⟩ := hret (s.pc + 1) s.stack hstack
  rw [hc.keeps.params, hc.keeps.progLen] at hbad hreturns
  refine ⟨t, ht, fun hok => ?_, fun hcheck hlast => hbad hcheck hlast.ge⟩
  obtain ⟨u, hu, hcu, hback, -⟩ := hreturns hok
  exact ⟨u, hu, hcu.pc, hback⟩

end Sys2Proof.Machine
end

section
/-! PROOFS of the family 44_memory_ops. STORE, LOAD_MEM and MEMCPY: a word written to data memory, a word loaded from it, and
the block copy (spec/44_memory_ops.md R240 to R247). -/

namespace Sys2Proof.Machine

variable {s : State} {d : Byte} {addr : Word}

/-! ### STORE -/

/-- STORE, its checks passed: data memory holds the word written, and no other data is changed. -/
theorem exec_store_completes (hd : d.toNat < 16) (ha : addr.toNat + 4 ≤ s.cfgMemSize) :
    ∃ t, exec (.store d addr) s = .next t ∧
      Completed s t (s.pc + 1) [.memAccess addr true 4 (s.readReg ⟨d.toNat, hd⟩)] ∧
      t.mem = s.wordWritten addr.toNat (s.readReg ⟨d.toNat, hd⟩) ∧ KeepsRegs s t ∧ t.cmpFlag = s.cmpFlag ∧
      t.stack = s.stack := by
  obtain ⟨t, ht, hc, hregs, hflag, hstack, hmem⟩ :=
    advance_completes ((SameRun.of_setMem s (s.wordWritten addr.toNat (s.readReg ⟨d.toNat, hd⟩))).emit _) (s.pc + 1) [_] rfl
  exact ⟨t, (exec_store s hd ha).trans ht, hc, hmem, .of_eq hregs, hflag, hstack⟩

/-- Settles O31: the register check, the bounds check, else one word written, of which `lane k` is `k` in little-endian
order. -/
theorem storeFollowsItsRule : Obligations.StoreFollowsItsRule := by
  unfold Obligations.StoreFollowsItsRule
  intro s d addr
  refine ⟨fun hd => ?_, fun hd hout => ?_, fun hd ha => ?_⟩
  · rw [exec_store_badReg s hd]
    exact raise_rejects s .badRegDest
  · rw [exec_store_outside s hd hout]
    exact raise_rejects s .memBounds
  · obtain ⟨t, ht, hc, -, hdata⟩ := exec_store_completes hd ha
    obtain ⟨u, hu, written, kept⟩ := exec_store_readByte hd ha
    obtain rfl := next_unique hu ht
    refine ⟨u, hu, hc, fun hlittle => ?_, kept, hdata⟩
    rw [hlittle] at written
    exact ⟨written 0 (by decide), written 1 (by decide), written 2 (by decide), written 3 (by decide)⟩

/-! ### LOAD_MEM -/

/-- With `DATA_ENDIAN` `LITTLE` a word's lowest address is its least significant byte (R62). -/
theorem readWord_of_little (hlittle : s.params.dataEndian = .little) (a : Nat) :
    s.readWord a = s.readByte (a + 3) ++ s.readByte (a + 2) ++ s.readByte (a + 1) ++ s.readByte a := by
  rw [State.readWord, hlittle]
  rfl

theorem toNat_append_byte {n : Nat} (x : BitVec n) (b : Byte) : (x ++ b).toNat = b.toNat + 2 ^ 8 * x.toNat := by
  rw [BitVec.toNat_append, ← Nat.shiftLeft_add_eq_or_of_lt b.isLt, Nat.shiftLeft_eq, Nat.add_comm, Nat.mul_comm]

/-- The number that four bytes put together stand for. -/
theorem toNat_append_bytes (b₃ b₂ b₁ b₀ : Byte) :
    (b₃ ++ b₂ ++ b₁ ++ b₀).toNat = b₀.toNat + 2 ^ 8 * b₁.toNat + 2 ^ 16 * b₂.toNat + 2 ^ 24 * b₃.toNat := by
  rw [toNat_append_byte, toNat_append_byte, toNat_append_byte]
  omega

/-- Settles O32: the register check, the bounds check, else one write of the word at the address. -/
theorem loadMemFollowsItsRule : Obligations.LoadMemFollowsItsRule := by
  unfold Obligations.LoadMemFollowsItsRule
  intro s d addr
  refine ⟨fun hd => ?_, fun hd hout => ?_, fun hd ha => ?_⟩
  · rw [exec_loadMem_badReg s hd]
    exact raise_rejects s .badRegDest
  · rw [exec_loadMem_outside s hd hout]
    exact raise_rejects s .memBounds
  · obtain ⟨t, ht, hc, hregs, hflag, hstack, hmem⟩ :=
      advance_completes ((SameRun.of_writeReg s ⟨d.toNat, hd⟩ (s.readWord addr.toNat)).emit _) (s.pc + 1) [_] rfl
    refine ⟨s.readWord addr.toNat, t, (exec_loadMem s hd ha).trans ht, hc,
      .of_eq hregs hflag hstack hmem hc.keeps.memDraw, fun hlittle => ?_⟩
    rw [readWord_of_little hlittle]
    exact ⟨rfl, toNat_append_bytes _ _ _ _⟩

/-- Settles O33: a word is read back from where it was written, in the byte order that STORE has left as it was. -/
theorem storeThenLoadGivesTheValueBack : Obligations.StoreThenLoadGivesTheValueBack := by
  unfold Obligations.StoreThenLoadGivesTheValueBack
  intro s d e addr hd he ha
  obtain ⟨t, ht, hc, hmem, -⟩ := exec_store_completes hd ha
  obtain ⟨u, hu, loaded⟩ := exec_loadMem_readReg he (hc.keeps.cfgMemSize ▸ ha)
  refine ⟨t, u, ht, hu, loaded.trans ?_⟩
  rw [State.readWord, hmem, hc.keeps.params, State.wordWritten, Memory.readWord_writeWord]

/-! ### MEMCPY -/

/-- R246: whatever the overlap, a completed copy has moved the source's bytes as they were before it, and no other byte. -/
theorem advance_copy (s : State) (dst src n : Nat) (next : Word) :
    ∃ t, advance next (s.setMem (s.mem.copy s.memDraw dst src n)) = .next t ∧ Completed s t next [] ∧ KeepsRegs s t ∧
      t.cmpFlag = s.cmpFlag ∧ t.stack = s.stack ∧ (∀ k, k < n → t.readByte (dst + k) = s.readByte (src + k)) ∧
      KeepsMemBut s t dst n := by
  obtain ⟨t, ht, hc, hregs, hflag, hstack, hmem⟩ :=
    advance_completes (SameRun.of_setMem s (s.mem.copy s.memDraw dst src n)) next [] (List.append_nil _).symm
  have hread (x : Nat) : t.readByte x = if dst ≤ x ∧ x < dst + n then s.readByte (src + (x - dst)) else s.readByte x := by
    rw [readByte_eq, hmem, hc.keeps.memDraw, setMem_mem, Memory.read_copy, readByte_eq, readByte_eq]
  refine ⟨t, ht, hc, .of_eq hregs, hflag, hstack, fun k hk => ?_, fun x hx => ?_⟩
  · rw [hread, if_pos (by omega), Nat.add_sub_cancel_left]
  · rw [hread, if_neg (by omega)]

section
variable (s) {dest src len : Word}

theorem copyBlock_empty (hn : len.toNat = 0) : copyBlock dest src len s = advance (s.pc + 1) s :=
  if_pos (BitVec.eq_of_toNat_eq hn)

theorem copyBlock_refused (hn : len.toNat ≠ 0) (hbad : ¬ CopyAllowed s dest.toNat src.toNat len.toNat) :
    copyBlock dest src len s = raise .copyBounds s := by
  rw [copyBlock, if_neg (ne_of_apply_ne BitVec.toNat hn), if_neg (mt (copyOk_iff s dest src len).1 hbad)]

theorem copyBlock_allowed (hn : len.toNat ≠ 0) (hok : CopyAllowed s dest.toNat src.toNat len.toNat) :
    copyBlock dest src len s =
      advance (s.pc + 1) (s.setMem (s.mem.copy s.memDraw dest.toNat src.toNat len.toNat)) := by
  rw [copyBlock, if_neg (ne_of_apply_ne BitVec.toNat hn), if_pos ((copyOk_iff s dest src len).2 hok)]

end

/-- R244, R245, R246, R67, wherever the operands come from. -/
theorem copiesBlock_of_exec {i : Instr} {dest src len : Word} (hexec : exec i s = copyBlock dest src len s) :
    CopiesBlock i s dest.toNat src.toNat len.toNat := by
  rw [CopiesBlock, hexec]
  refine ⟨fun hn => ?_, fun hn hbad => ?_, fun hn hok => ?_⟩
  · rw [copyBlock_empty s hn]
    exact advance_keepsData s _
  · rw [copyBlock_refused s hn hbad]
    exact raise_rejects s .copyBounds
  · rw [copyBlock_allowed s hn hok]
    exact advance_copy s _ _ _ _

/-- Settles O34: the block copy of the three fields, `dest_reg` zero-extended. -/
theorem memcpyMovesItsBlock : Obligations.MemcpyMovesItsBlock := by
  unfold Obligations.MemcpyMovesItsBlock
  intro s d a b hfields
  rw [← toNat_dest d]
  exact copiesBlock_of_exec (exec_memcpy_positional s hfields)

/-- Settles O35: the three register checks, else the block copy of the registers' values. -/
theorem indirectMemcpyMovesItsBlock : Obligations.IndirectMemcpyMovesItsBlock := by
  unfold Obligations.IndirectMemcpyMovesItsBlock
  intro s d a b hfields
  have hexec := exec_memcpy_indirect s (d := d) (a := a) (b := b) hfields
  refine ⟨checksThreeRegs_of_exec hexec, fun hd ha hb => copiesBlock_of_exec ?_⟩
  rw [hexec, withThreeRegs_ok hd ha hb]

end Sys2Proof.Machine
end

section
/-! PROOFS of the family 60_exceptions. No failure stops the unit, and a host command that fails only answers
(spec/60_exceptions.md R260, R268, R270, R277). -/

namespace Sys2Proof.Machine

variable {s u u' : State}

/-! ### A step always answers -/

/-- Settles O11: with no command waiting the host's turn is empty. -/
theorem waitingUnitKeepsItsState : Obligations.WaitingUnitKeepsItsState := by
  unfold Obligations.WaitingUnitKeepsItsState
  intro s hwaits hp
  rw [step_waiting hwaits, hostStep_none hp]

/-- Settles O12: a dispatch answers however it ends, and outside a run the host's turn is a next state. -/
theorem everyStepHasANextState : Obligations.EveryStepHasANextState := by
  unfold Obligations.EveryStepHasANextState
  intro s
  by_cases hrun : s.engineState = .running
  · rw [step_running hrun]
    rcases runStep_cases s with hoff | ⟨r, -, -, hr⟩
    · exact ⟨_, hoff⟩
    · obtain ⟨t, ht, -⟩ := dispatch_ends (s.clearEvents.fetched r) r
      exact ⟨t, hr.trans ht⟩
  · exact ⟨_, step_waiting hrun⟩

/-! ### A failing command only answers -/

/-- Where `u` answers a failure, it is `s` but for that answer (R270). -/
def FailureOnlyAnswers (s u : State) : Prop :=
  ∀ k ca, u.response = some (.failure k ca) → u = s.respond (.failure k ca)

theorem FailureOnlyAnswers.of_reject (s : State) (c : Cause) : FailureOnlyAnswers s (s.reject c) := by
  intro k ca h
  have hanswer : c.response = .failure k ca := Option.some.inj h
  rw [State.reject, hanswer]

theorem FailureOnlyAnswers.of_success (h : ∀ k ca, u.response ≠ some (.failure k ca)) : FailureOnlyAnswers s u :=
  fun k ca hfail => absurd hfail (h k ca)

theorem FailureOnlyAnswers.ite {p : Prop} [Decidable p] (h : FailureOnlyAnswers s u) (h' : FailureOnlyAnswers s u') :
    FailureOnlyAnswers s (if p then u else u') := by
  split
  · exact h
  · exact h'

/-- A command's only failing branches are its rejections; every other branch answers a success or, like RUN, nothing yet. -/
theorem command_failureOnlyAnswers (s : State) (c : HostCmd) : FailureOnlyAnswers s (s.command c) := by
  cases c with
  | init n => exact .ite (.of_reject s _) (.of_success (by simp [State.afterInit]))
  | teardown => exact .ite (.of_success (by simp [State.teardown, State.afterInit])) (.of_reject s _)
  | loadProgram rs => exact .ite (.ite (.of_reject s _) (.ite (.of_reject s _) (.of_success (by simp)))) (.of_reject s _)
  | run => exact .ite (.ite (.of_success (by simp)) (.of_reject s _)) (.of_reject s _)
  | getRegister i =>
    refine .ite ?_ (.of_reject s _)
    by_cases hi : i < 16
    · rw [getRegister_ok hi]
      exact .of_success (by simp)
    · rw [getRegister_bad (Nat.not_lt.1 hi)]
      exact .of_reject s _
  | snapshot => exact .ite (.of_success (by simp [State.takeSnapshot])) (.of_reject s _)

/-- Settles O59: the step takes the command from the state without its events, where a failure only answers. -/
theorem failedCommandsChangeNoState : Obligations.FailedCommandsChangeNoState := by
  unfold Obligations.FailedCommandsChangeNoState
  intro s t c cs k ca hwaits hp h hfail
  obtain rfl := next_unique h (step_command hwaits hp rfl)
  exact command_failureOnlyAnswers { s with pending := cs, events := [] } c k ca hfail

end Sys2Proof.Machine
end

section
/-! PROOFS of the family 70_reset_and_hazards. What an INIT leaves: the reset state, the reset of an existing engine, the new
draws of memory and `last_insn` (spec/70_reset_and_hazards.md R290, R292). -/

namespace Sys2Proof.Machine

variable {s : State} {n : Nat} {cs : List HostCmd}

/-! ### The unit after INIT -/

section
variable {p : Params} {size draw cacheDraw : Nat} {pending : List HostCmd}

@[simp] theorem readReg_afterInit (r : Fin 16) : (State.afterInit p size draw cacheDraw pending).readReg r = 0 :=
  Vector.getElem_replicate r.isLt

@[simp] theorem count_afterInit (i : Nat) : (State.afterInit p size draw cacheDraw pending).count i = 0 := rfl

@[simp] theorem readByte_afterInit (a : Nat) :
    (State.afterInit p size draw cacheDraw pending).readByte a = Config.memInit draw a := rfl

end

/-! ### Reset -/

/-- R11, R12: the free capacities are legal by their form, the opcode numbers by their defaults. -/
theorem asBuilt_legal : Params.asBuilt.Legal := by
  have hprog : Config.progCapacityLessOne % (2 ^ 32 - 1) < 2 ^ 32 - 1 := Nat.mod_lt _ (by decide)
  have hopcodes : OpcodeNums.standard.Legal := by
    unfold OpcodeNums.Legal
    decide
  exact ⟨Nat.succ_pos _, Nat.succ_pos _, hprog, hopcodes⟩

/-- Settles O48: the reset state is an empty unit with an engine, of legal parameters and the default memory size. -/
theorem resetMeetsTheInvariant : Obligations.ResetMeetsTheInvariant := by
  unfold Obligations.ResetMeetsTheInvariant
  exact afterInit_inv asBuilt_legal (live := true) (by decide) _ _ _ _

/-- Settles O50: the reset state is the unit after INIT, whose registers, counters and bytes read as R290 says. -/
theorem resetStateHoldsTheResetValues : Obligations.ResetStateHoldsTheResetValues := by
  unfold Obligations.ResetStateHoldsTheResetValues
  exact ⟨readReg_afterInit, rfl, rfl, rfl, rfl, rfl, rfl, rfl, rfl, count_afterInit, rfl, readByte_afterInit, rfl⟩

/-! ### INIT -/

theorem init_rejected (h : n = 0 ∨ Config.maxMemSize < n) : s.init n = s.reject .badConfig := if_pos h

theorem init_accepted (hpos : 1 ≤ n) (hmax : n ≤ Config.maxMemSize) :
    s.init n = State.afterInit s.params n (s.memDraw + 1) s.cacheDraw s.pending := if_neg (by omega)

/-- R123, R290: a unit that does not run answers an accepted INIT with an empty unit of its own parameters and a new draw. -/
theorem step_init_accepted (hwaits : s.engineState ≠ .running) (hp : s.pending = .init n :: cs) (hpos : 1 ≤ n)
    (hmax : n ≤ 2 ^ 32) : step s = .next (State.afterInit s.params n (s.memDraw + 1) s.cacheDraw cs) :=
  step_command hwaits hp (init_accepted hpos hmax)

/-- Settles O51: a bad size is rejected, an accepted INIT leaves the unit after INIT. -/
theorem initResetsEveryElement : Obligations.InitResetsEveryElement := by
  unfold Obligations.InitResetsEveryElement
  intro s n cs hwaits hp
  refine ⟨fun hbad => ?_, fun hpos hmax => ?_⟩
  · exact step_command hwaits hp (init_rejected hbad)
  · exact ⟨_, step_init_accepted hwaits hp hpos hmax, rfl, rfl, readReg_afterInit, rfl, rfl, rfl, rfl, rfl, rfl,
      rfl, rfl, count_afterInit, rfl, rfl, rfl⟩

/-- Settles O52: the unit after INIT has written no byte, so every address reads as the new draw. -/
theorem initDrawsMemoryAnew : Obligations.InitDrawsMemoryAnew := by
  unfold Obligations.InitDrawsMemoryAnew
  intro s n cs hwaits hp hpos hmax
  exact ⟨_, step_init_accepted hwaits hp hpos hmax, rfl, readByte_afterInit, rfl⟩

end Sys2Proof.Machine
end
